-- ==== Sys2Proof/Word.lean ====
section
/-! DEFINITION. The words DDBLK computes with (00_scope.md R7, R9): every value is unsigned. -/

namespace Sys2Proof

/-- One byte of a frame. -/
abbrev Byte := BitVec 8

/-- A host command word, a bus register word, or RSP_DATA (30_encoding.md R80, R91; 10_state.md R38). -/
abbrev Word := BitVec 64

/-- A device frame index (00_scope.md R7). -/
abbrev FrameIndex := BitVec 16

/-- A store id (00_scope.md R8, R12). -/
abbrev StoreId := BitVec 8

/-- FRAME_BYTES (00_scope.md R7). -/
abbrev frameBytes : Nat := 4096

/-- A whole frame as it crosses the bus: all 4096 bytes (00_scope.md R12, 20_memory.md R65). -/
abbrev Frame := Vector Byte 4096

/-- The frame whose byte `k` is `f k`. -/
def frameOf (f : Nat → Byte) : Frame :=
  ⟨((List.range 4096).map f).toArray, by simp⟩

end Sys2Proof
end

