-- ==== Sys2Proof/Config.lean ====
section
/-! DEFINITION. What an implementation fixes (00_scope.md R8) and the free values the spec leaves open
(93_implementation_defined.md U2, U4, U11, U17). -/

namespace Sys2Proof

/-- REG_LAYOUT (30_encoding.md R91). -/
inductive RegLayout where
  | lsbFirst
  | msbFirst
  deriving DecidableEq, Repr

/-- KEY_MODE (42_frame_cache.md R161). -/
inductive KeyMode where
  | frameOnly
  | full
  deriving DecidableEq, Repr

/-- RETRY_PAYLOAD (40_protocol_engine.md R117). -/
inductive RetryPayload where
  | current
  | original
  deriving DecidableEq, Repr

/-- CSUM (40_protocol_engine.md R114): the default CSUM_SUM, or some other total function of the frame,
named by a number and otherwise unknown (log entry 12). -/
inductive CsumKind where
  | sum
  | other (n : Nat)
  deriving DecidableEq, Repr

/-- OPCODE_MAP (30_encoding.md R92). -/
structure OpcodeMap where
  deviceInit : BitVec 8
  zeroAll    : BitVec 8
  powerOff   : BitVec 8
  frameRead  : BitVec 8
  frameWrite : BitVec 8
  deriving DecidableEq, Repr

/-- The implementation parameters of 00_scope.md R8, fixed for a given block (log entry 1). -/
structure Params where
  /-- DEVICE_FRAMES, as CSR DEVFRAMES reports it (10_state.md R33). -/
  deviceFrames : BitVec 17
  /-- CAP_MAX, as CSR CAPMAX reports it (10_state.md R34). -/
  capMax       : BitVec 16
  csum         : CsumKind
  opcodes      : OpcodeMap
  layout       : RegLayout
  keyMode      : KeyMode
  retryPayload : RetryPayload
  deriving DecidableEq, Repr

/-- The default OPCODE_MAP (30_encoding.md R92). -/
def OpcodeMap.default : OpcodeMap :=
  { deviceInit := 0x01, zeroAll := 0x02, powerOff := 0x03, frameRead := 0x04, frameWrite := 0x05 }

/-- The defaults of 00_scope.md R8; for the two OPEN parameters the values of 95_test_vectors.md
(DESIGN CHOICE, unsafe, log entry 1). -/
def Params.default : Params :=
  { deviceFrames := 8, capMax := 4, csum := .sum, opcodes := OpcodeMap.default,
    layout := .lsbFirst, keyMode := .frameOnly, retryPayload := .current }

/-- The five opcode values (30_encoding.md R92). -/
def OpcodeMap.values (m : OpcodeMap) : List (BitVec 8) :=
  [m.deviceInit, m.zeroAll, m.powerOff, m.frameRead, m.frameWrite]

/-- The five opcode values are distinct (30_encoding.md R92). -/
abbrev OpcodeMap.Distinct (m : OpcodeMap) : Prop := m.values.Nodup

/-- The legal values of the parameters (00_scope.md R8). -/
abbrev Params.Legal (p : Params) : Prop :=
  1 ≤ p.deviceFrames.toNat ∧ p.deviceFrames.toNat ≤ 65536 ∧ 1 ≤ p.capMax.toNat ∧ p.opcodes.Distinct

/-- One answer of the bus to an exchange: the register and the frame it returns
(40_protocol_engine.md R127). -/
structure BusAnswer where
  word  : Word
  frame : Frame
  deriving DecidableEq, Repr, Inhabited

/-- FREE VALUE: the byte FBUF holds at an address nothing has written since the `resets`-th block reset
(93_implementation_defined.md U11; log entry 2). -/
opaque Config.unwritten (resets addr : Nat) : Byte

/-- FREE VALUE: the checksum function number `n` when CSUM is not the default
(40_protocol_engine.md R114; log entry 12). -/
opaque Config.csumOther (n : Nat) (f : Frame) : BitVec 32

/-- FREE VALUE: how the bus transport answers exchange number `k` of request `req` with payload `payload`;
`none` when it never does (40_protocol_engine.md R127; log entry 5). -/
opaque Config.busAnswer (k : Nat) (req : Word) (payload : Frame) : Option BusAnswer

end Sys2Proof
end

