-- ==== Sys2Proof/Syntax.lean ====
section
/-! DEFINITION. The instructions of spec/opcode_table.json, one constructor a row, and the bus register's
four fields. -/

namespace Sys2Proof

/-- The bus register's fields (30_encoding.md R91). -/
structure BusReg where
  opcode     : BitVec 8
  frame      : FrameIndex
  checksum   : BitVec 32
  returnCode : BitVec 8
  deriving DecidableEq, Repr

/-- DDBLK's two instruction sets (00_scope.md R2): the ten host commands (30_encoding.md R88) and the five bus
opcodes, whose words are the requests the engine presents to the bus (30_encoding.md R92, R94). -/
inductive Instr where
  /-- PWR_ON, format H0 (R200). -/
  | pwrOn
  /-- PWR_OFF, format H0 (R201). -/
  | pwrOff
  /-- EXEC opc, fidx, format HX (R116). -/
  | exec (opc : BitVec 8) (fidx : FrameIndex)
  /-- CLOOKUP sid, fidx, format HK (R162). -/
  | clookup (sid : StoreId) (fidx : FrameIndex)
  /-- CUPSERT sid, fidx, format HK (R163). -/
  | cupsert (sid : StoreId) (fidx : FrameIndex)
  /-- ALLOC have, need, format HA (R190). -/
  | alloc (have_ : BitVec 20) (need : BitVec 32)
  /-- FBRD addr, format HB (R202). -/
  | fbrd (addr : BitVec 12)
  /-- FBWR addr, data, format HB (R203). -/
  | fbwr (addr : BitVec 12) (data : Byte)
  /-- CSRR csr, format HC (R204). -/
  | csrr (csr : BitVec 8)
  /-- CSRW csr, value, format HC (R205). -/
  | csrw (csr : BitVec 8) (value : BitVec 48)
  /-- A request of OP_DEVICE_INIT (R140). -/
  | opDeviceInit (fidx : FrameIndex) (csum : BitVec 32) (rc : BitVec 8)
  /-- A request of OP_ZERO_ALL (R141). -/
  | opZeroAll (fidx : FrameIndex) (csum : BitVec 32) (rc : BitVec 8)
  /-- A request of OP_POWER_OFF (R142). -/
  | opPowerOff (fidx : FrameIndex) (csum : BitVec 32) (rc : BitVec 8)
  /-- A request of OP_FRAME_READ (R143). -/
  | opFrameRead (fidx : FrameIndex) (csum : BitVec 32) (rc : BitVec 8)
  /-- A request of OP_FRAME_WRITE (R144). -/
  | opFrameWrite (fidx : FrameIndex) (csum : BitVec 32) (rc : BitVec 8)
  deriving DecidableEq, Repr

end Sys2Proof
end

