-- ==== Sys2Proof/Decode.lean ====
section
/-! DEFINITION. Decoding of host command words (30_encoding.md R80 to R90) and of bus register words (R91, R92;
40_protocol_engine.md R111, R112), and the encoder of both. -/

namespace Sys2Proof

/-! ### Host command words -/

/-- Why a command word is illegal (30_encoding.md R89). -/
inductive DecodeReject where
  /-- CMD is 0x0 or 0xB to 0xF. -/
  | reservedCode (cmd : BitVec 4)
  /-- CMD is a command's, and a bit that must be 0 is set. -/
  | reservedBits (cmd : BitVec 4)
  deriving DecidableEq, Repr

/-- What a command word is (30_encoding.md R90): one of the ten commands, or illegal. -/
inductive Decoded where
  | instr (i : Instr)
  | illegal (why : DecodeReject)
  deriving DecidableEq, Repr

/-- CMD, bits [3:0] (30_encoding.md R80). -/
def cmdField (w : Word) : BitVec 4 := w.extractLsb' 0 4

/-- OPC, SID and CSR, bits [15:8] (30_encoding.md R82, R83, R86). -/
def byteField (w : Word) : BitVec 8 := w.extractLsb' 8 8

/-- FIDX, bits [31:16] (30_encoding.md R82, R83). -/
def fidxField (w : Word) : FrameIndex := w.extractLsb' 16 16

/-- HAVE, bits [27:8] (30_encoding.md R84). -/
def haveField (w : Word) : BitVec 20 := w.extractLsb' 8 20

/-- NEED, bits [59:28] (30_encoding.md R84). -/
def needField (w : Word) : BitVec 32 := w.extractLsb' 28 32

/-- ADDR, bits [19:8] (30_encoding.md R85). -/
def addrField (w : Word) : BitVec 12 := w.extractLsb' 8 12

/-- DATA, bits [27:20] (30_encoding.md R85). -/
def dataField (w : Word) : Byte := w.extractLsb' 20 8

/-- VALUE, bits [63:16] (30_encoding.md R86). -/
def valueField (w : Word) : BitVec 48 := w.extractLsb' 16 48

/-- The reason an unmatched word is refused (30_encoding.md R89). -/
def rejectOf (w : Word) : DecodeReject :=
  if cmdField w = 0 ∨ 0xB ≤ cmdField w then .reservedCode (cmdField w) else .reservedBits (cmdField w)

/-- The decoder of the command port: the rows of 30_encoding.md R88 by mask and match, and R89 for the rest. -/
def decode (w : Word) : Decoded :=
  if w &&& 0xFFFFFFFFFFFFFFFF = 0x0000000000000001 then .instr .pwrOn
  else if w &&& 0xFFFFFFFFFFFFFFFF = 0x0000000000000002 then .instr .pwrOff
  else if w &&& 0xFFFFFFFF000000FF = 0x0000000000000003 then .instr (.exec (byteField w) (fidxField w))
  else if w &&& 0xFFFFFFFF000000FF = 0x0000000000000004 then .instr (.clookup (byteField w) (fidxField w))
  else if w &&& 0xFFFFFFFF000000FF = 0x0000000000000005 then .instr (.cupsert (byteField w) (fidxField w))
  else if w &&& 0xF0000000000000FF = 0x0000000000000006 then .instr (.alloc (haveField w) (needField w))
  else if w &&& 0xFFFFFFFFFFF000FF = 0x0000000000000007 then .instr (.fbrd (addrField w))
  else if w &&& 0xFFFFFFFFF00000FF = 0x0000000000000008 then .instr (.fbwr (addrField w) (dataField w))
  else if w &&& 0xFFFFFFFFFFFF00FF = 0x0000000000000009 then .instr (.csrr (byteField w))
  else if w &&& 0x00000000000000FF = 0x000000000000000A then .instr (.csrw (byteField w) (valueField w))
  else .illegal (rejectOf w)

/-! ### The bus register -/

/-- `pack` (40_protocol_engine.md R111). -/
def pack (l : RegLayout) (r : BusReg) : Word :=
  match l with
  | .lsbFirst =>
    r.opcode.setWidth 64 ||| r.frame.setWidth 64 <<< 8 ||| r.checksum.setWidth 64 <<< 24
      ||| r.returnCode.setWidth 64 <<< 56
  | .msbFirst =>
    r.returnCode.setWidth 64 ||| r.checksum.setWidth 64 <<< 8 ||| r.frame.setWidth 64 <<< 40
      ||| r.opcode.setWidth 64 <<< 56

/-- `unpack` (40_protocol_engine.md R112). -/
def unpack (l : RegLayout) (w : Word) : BusReg :=
  match l with
  | .lsbFirst =>
    { opcode := w.extractLsb' 0 8, frame := w.extractLsb' 8 16, checksum := w.extractLsb' 24 32,
      returnCode := w.extractLsb' 56 8 }
  | .msbFirst =>
    { opcode := w.extractLsb' 56 8, frame := w.extractLsb' 40 16, checksum := w.extractLsb' 8 32,
      returnCode := w.extractLsb' 0 8 }

/-- The request a bus register word stands for, by its opcode field (30_encoding.md R92); `none` for the opcode
values outside the five (R93), which have no row. -/
def decodeBus (p : Params) (w : Word) : Option Instr :=
  let r := unpack p.layout w
  if r.opcode = p.opcodes.deviceInit then some (.opDeviceInit r.frame r.checksum r.returnCode)
  else if r.opcode = p.opcodes.zeroAll then some (.opZeroAll r.frame r.checksum r.returnCode)
  else if r.opcode = p.opcodes.powerOff then some (.opPowerOff r.frame r.checksum r.returnCode)
  else if r.opcode = p.opcodes.frameRead then some (.opFrameRead r.frame r.checksum r.returnCode)
  else if r.opcode = p.opcodes.frameWrite then some (.opFrameWrite r.frame r.checksum r.returnCode)
  else none

/-! ### Words as bytes -/

/-- A 64-bit word as a byte-serial transport carries it: least significant byte first (20_memory.md R63). -/
def wordToBytes (w : Word) : List Byte :=
  (List.range 8).map fun k => w.extractLsb' (8 * k) 8

/-- The word whose bytes, least significant first, are `l`; bytes beyond the eighth do not fit
(20_memory.md R63). -/
def wordOfBytes : List Byte → Word
  | [] => 0
  | b :: l => b.setWidth 64 ||| wordOfBytes l <<< 8

/-! ### The encoder -/

/-- The word of an instruction: formats H0 to HC for a command (30_encoding.md R81 to R86), the register word for
a bus request (R91, R92). -/
def encode (p : Params) : Instr → Word
  | .pwrOn => 0x1
  | .pwrOff => 0x2
  | .exec opc fidx => 0x3 ||| opc.setWidth 64 <<< 8 ||| fidx.setWidth 64 <<< 16
  | .clookup sid fidx => 0x4 ||| sid.setWidth 64 <<< 8 ||| fidx.setWidth 64 <<< 16
  | .cupsert sid fidx => 0x5 ||| sid.setWidth 64 <<< 8 ||| fidx.setWidth 64 <<< 16
  | .alloc have_ need => 0x6 ||| have_.setWidth 64 <<< 8 ||| need.setWidth 64 <<< 28
  | .fbrd addr => 0x7 ||| addr.setWidth 64 <<< 8
  | .fbwr addr data => 0x8 ||| addr.setWidth 64 <<< 8 ||| data.setWidth 64 <<< 20
  | .csrr csr => 0x9 ||| csr.setWidth 64 <<< 8
  | .csrw csr value => 0xA ||| csr.setWidth 64 <<< 8 ||| value.setWidth 64 <<< 16
  | .opDeviceInit fidx csum rc => pack p.layout ⟨p.opcodes.deviceInit, fidx, csum, rc⟩
  | .opZeroAll fidx csum rc => pack p.layout ⟨p.opcodes.zeroAll, fidx, csum, rc⟩
  | .opPowerOff fidx csum rc => pack p.layout ⟨p.opcodes.powerOff, fidx, csum, rc⟩
  | .opFrameRead fidx csum rc => pack p.layout ⟨p.opcodes.frameRead, fidx, csum, rc⟩
  | .opFrameWrite fidx csum rc => pack p.layout ⟨p.opcodes.frameWrite, fidx, csum, rc⟩

/-- The instruction is a host command, not a bus request (00_scope.md R2). -/
def Instr.isCommand : Instr → Bool
  | .pwrOn | .pwrOff | .exec _ _ | .clookup _ _ | .cupsert _ _ | .alloc _ _ => true
  | .fbrd _ | .fbwr _ _ | .csrr _ | .csrw _ _ => true
  | .opDeviceInit _ _ _ | .opZeroAll _ _ _ | .opPowerOff _ _ _ | .opFrameRead _ _ _ | .opFrameWrite _ _ _ => false

/-- The mask of the instruction's row in spec/opcode_table.json (30_encoding.md R88). -/
def Instr.rowMask : Instr → Word
  | .pwrOn | .pwrOff => 0xFFFFFFFFFFFFFFFF
  | .exec _ _ | .clookup _ _ | .cupsert _ _ => 0xFFFFFFFF000000FF
  | .alloc _ _ => 0xF0000000000000FF
  | .fbrd _ => 0xFFFFFFFFFFF000FF
  | .fbwr _ _ => 0xFFFFFFFFF00000FF
  | .csrr _ => 0xFFFFFFFFFFFF00FF
  | .csrw _ _ => 0x00000000000000FF
  | .opDeviceInit _ _ _ | .opZeroAll _ _ _ | .opPowerOff _ _ _ | .opFrameRead _ _ _ | .opFrameWrite _ _ _ => 0xFF

/-- The match of the instruction's row in spec/opcode_table.json (30_encoding.md R88, and R92 with the default
OPCODE_MAP). -/
def Instr.rowMatch : Instr → Word
  | .pwrOn => 0x1
  | .pwrOff => 0x2
  | .exec _ _ => 0x3
  | .clookup _ _ => 0x4
  | .cupsert _ _ => 0x5
  | .alloc _ _ => 0x6
  | .fbrd _ => 0x7
  | .fbwr _ _ => 0x8
  | .csrr _ => 0x9
  | .csrw _ _ => 0xA
  | .opDeviceInit _ _ _ => 0x1
  | .opZeroAll _ _ _ => 0x2
  | .opPowerOff _ _ _ => 0x3
  | .opFrameRead _ _ _ => 0x4
  | .opFrameWrite _ _ _ => 0x5

/-! ### The opcode table's words -/

/-- The command a word is, if it is legal. -/
def Decoded.instr? : Decoded → Option Instr
  | .instr i => some i
  | .illegal _ => none

/-- Which of the two instruction sets a word of spec/opcode_table.json belongs to: `true` for the bus register's.
The sets share code points, and the table tells them apart by how many bits a row fixes: a bus opcode's row fixes
one byte, a command's row of the same code fixes more (log entry 11). -/
def isBusTableWord (p : Params) (nbits w : Nat) : Bool :=
  let word := BitVec.ofNat 64 (w % 2 ^ nbits)
  if nbits ≤ 8 then (decodeBus p word).isSome
  else (decode word).instr?.isNone && (decodeBus p word).isSome

/-- The instruction the decoders read from a word of spec/opcode_table.json (log entry 11). -/
def decodeTableWord (nbits w : Nat) : Option Instr :=
  let word := BitVec.ofNat 64 (w % 2 ^ nbits)
  if isBusTableWord Params.default nbits w then decodeBus Params.default word
  else (decode word).instr?

end Sys2Proof
end

