-- ==== Sys2Proof/Machine/State.lean ====
section
/-! DEFINITION. The architectural state of DDBLK (10_state.md R20) as plain data, the reasons a step can stop,
and the state after block reset (70_reset_and_hazards.md R300). -/

namespace Sys2Proof.Machine

/-- The engine's control state (10_state.md R22). -/
inductive Fsm where
  | idle
  | prep
  | xchg
  | check
  deriving DecidableEq, Repr

/-- The failure causes (60_exceptions.md R270). -/
inductive Cause where
  | none
  | notPoweredOn
  | outOfFrames
  | retryExhausted
  | badCommand
  | cfgLate
  deriving DecidableEq, Repr

/-- The bytes of a frame buffer, by address 0 to 4095: the bytes written, at strictly rising addresses. An
address that is not listed has not been written since reset and holds no stated value (10_state.md R42; log
entry 2). -/
abbrev Memory := List Host.Cell

/-- A cache entry (10_state.md R39): SID, FIDX and DATA, a copy of the FBUF it was stored from. -/
structure CacheEntry where
  sid  : StoreId
  fidx : FrameIndex
  data : Memory
  deriving DecidableEq, Repr

/-- What the bus does once its listed answers are used up (log entry 5). -/
inductive BusLater where
  /-- It never answers again. -/
  | silent
  /-- It gives this answer to every exchange. -/
  | repeating (a : BusAnswer)
  /-- Exchange number `k`, and the ones after it, are the opaque oracle's. -/
  | free (k : Nat)
  deriving DecidableEq, Repr

/-- The bus transport as the block meets it: its answers to the coming exchanges (40_protocol_engine.md R127). -/
structure BusSource where
  listed : List BusAnswer
  later  : BusLater
  deriving DecidableEq, Repr

/-- The state of DDBLK (10_state.md R20), and below the line the model's own fields. -/
structure State where
  /-- POWERED (R23). -/
  powered        : Bool
  /-- CFG_FAULT, sticky (R24). -/
  cfgFault       : Bool
  /-- CSR CAPACITY.CAP (R26). -/
  capacity       : BitVec 16
  /-- CSR RETRY.LIMIT (R27). -/
  retryLimit     : BitVec 32
  /-- CSR RETRY.UNBOUNDED (R27). -/
  retryUnbounded : Bool
  /-- CSR FFC, the free-frame counter (R29). -/
  ffc            : BitVec 17
  /-- CSR LAST_RSP (R31). -/
  lastRsp        : Word
  /-- CSR LAST_ATTEMPTS (R32). -/
  lastAttempts   : BitVec 32
  /-- CE, most recent first (R39). -/
  ce             : List CacheEntry
  /-- FBUF (R42). -/
  fbuf           : Memory
  /-- The engine's control state (R22). -/
  fsm            : Fsm
  /-- L_OPC (R43). -/
  lOpc           : BitVec 8
  /-- L_FIDX (R43). -/
  lFidx          : FrameIndex
  /-- ATT (R43). -/
  att            : BitVec 32
  /-- REQ (R43). -/
  req            : Word
  /-- SAVE, used only with RETRY_PAYLOAD = ORIGINAL (R43). -/
  save           : Memory
  /-- RSP_STATUS (R38). -/
  rspStatus      : Word
  /-- RSP_DATA (R38). -/
  rspData        : Word
  /-- The model's own: the block's parameters (00_scope.md R8; log entry 1). -/
  params         : Params
  /-- The model's own: the command words the host has yet to issue, in order (D2; log entry 7). -/
  port           : List Word
  /-- The model's own: the bus transport (R127; log entry 5). -/
  bus            : BusSource
  /-- The model's own: the reset input is asserted (R300; log entry 8). -/
  resetPin       : Bool
  /-- The model's own: block resets so far, the index of the free values of FBUF (log entry 4). -/
  resets         : Nat
  deriving DecidableEq, Repr

/-- Why the model stops. The block's own step never does. -/
inductive Fault where
  /-- FRAME_BEYOND_FILE: raised by the reference host driver's `read` only, when it reaches a frame position the
  file does not have (47_host_driver.md R239, 60_exceptions.md R275 (5)). Safe: the spec calls it a fault. -/
  | frameBeyondFile
  deriving DecidableEq, Repr

/-- Why the model refuses an instruction. -/
inductive Refusal where
  /-- Raised by an arm of `exec` whose instruction has no meaning yet; no arm is left. Safe. -/
  | notModelled (mnemonic : String)
  deriving DecidableEq, Repr

/-- The state after block reset of a block with parameters `p` (70_reset_and_hazards.md R300). FBUF and SAVE are
unspecified: nothing is listed (log entries 2, 3). The environment: no command waits, the bus is the opaque
oracle, the reset input is released (DESIGN CHOICE, log entries 4, 5, 7, 8). -/
def State.resetOf (p : Params) : State :=
  { powered := false, cfgFault := false, capacity := p.capMax, retryLimit := 0, retryUnbounded := true, ffc := 0,
    lastRsp := 0, lastAttempts := 0, ce := [], fbuf := [], fsm := .idle, lOpc := 0, lFidx := 0, att := 0, req := 0,
    save := [], rspStatus := 0, rspData := 0, params := p, port := [], bus := { listed := [], later := .free 0 },
    resetPin := false, resets := 0 }

/-- The machine right after reset, with the parameter values of log entry 1. -/
def State.reset : State := State.resetOf Params.default

end Sys2Proof.Machine
end

