-- ==== Sys2Proof/Machine/Flags.lean ====
section
/-! DEFINITION. RSP_STATUS, DDBLK's only flags (10_state.md R38), and the layouts of RSP_DATA. -/

namespace Sys2Proof.Machine

/-- The code of a cause (60_exceptions.md R270). -/
def Cause.code : Cause → BitVec 4
  | .none => 0
  | .notPoweredOn => 1
  | .outOfFrames => 2
  | .retryExhausted => 3
  | .badCommand => 4
  | .cfgLate => 5

/-- A 1-bit field as bit 0 of a word. -/
def bitWord (b : Bool) : Word := if b then 1 else 0

/-- RSP_STATUS from its fields: FAIL [0], HIT [1], CAUSE [7:4], all other bits 0 (10_state.md R38). -/
def statusWord (fail hit : Bool) (cause : Cause) : Word :=
  bitWord fail ||| bitWord hit <<< 1 ||| cause.code.setWidth 64 <<< 4

/-- RSP_STATUS.FAIL (10_state.md R38). -/
def failFlag (status : Word) : Bool := status.getLsbD 0

/-- RSP_STATUS.HIT (10_state.md R38). -/
def hitFlag (status : Word) : Bool := status.getLsbD 1

/-- RSP_STATUS.CAUSE (10_state.md R38). -/
def causeField (status : Word) : BitVec 4 := status.extractLsb' 4 4

/-- RSP_DATA of CUPSERT's steps 2 and 4: the step in [7:0], the entry's SID in [15:8] and FIDX in [31:16]
(42_frame_cache.md R163). -/
def upsertData (path : BitVec 8) (e : CacheEntry) : Word :=
  path.setWidth 64 ||| e.sid.setWidth 64 <<< 8 ||| e.fidx.setWidth 64 <<< 16

/-- RSP_DATA of ALLOC: `k` in [63:32], the first frame in [31:0] (43_frame_allocator.md R190). -/
def allocData (k : Nat) (base : BitVec 17) : Word :=
  BitVec.ofNat 64 k <<< 32 ||| base.setWidth 64

end Sys2Proof.Machine
end

