-- ==== Sys2Proof/Machine/Operands.lean ====
section
/-! DEFINITION. How the commands read their operand fields: every field is unsigned and zero-extended
(30_encoding.md R87); no field is an address of anything but FBUF and the CSR space. -/

namespace Sys2Proof.Machine

/-- The defined CSRs (10_state.md R25). -/
inductive Csr where
  | capacity
  | retry
  | status
  | ffc
  | ccount
  | lastRsp
  | lastAttempts
  | devframes
  | capmax
  | modes
  | opcodes
  deriving DecidableEq, Repr

/-- The number of a CSR (10_state.md R25). -/
def Csr.number : Csr → BitVec 8
  | .capacity => 0x00
  | .retry => 0x01
  | .status => 0x02
  | .ffc => 0x03
  | .ccount => 0x04
  | .lastRsp => 0x05
  | .lastAttempts => 0x06
  | .devframes => 0x07
  | .capmax => 0x08
  | .modes => 0x09
  | .opcodes => 0x0A

/-- The CSR a number names; `none` for the reserved numbers 0x0B to 0xFF (10_state.md R25, R37). -/
def csrOfNumber (n : BitVec 8) : Option Csr :=
  match n.toNat with
  | 0x00 => some .capacity
  | 0x01 => some .retry
  | 0x02 => some .status
  | 0x03 => some .ffc
  | 0x04 => some .ccount
  | 0x05 => some .lastRsp
  | 0x06 => some .lastAttempts
  | 0x07 => some .devframes
  | 0x08 => some .capmax
  | 0x09 => some .modes
  | 0x0A => some .opcodes
  | _ => none

/-- `k` of ALLOC, exactly: max(0, ceil(NEED / 4096) - HAVE) (43_frame_allocator.md R190, R191). -/
def framesNeeded (have_ : BitVec 20) (need : BitVec 32) : Nat :=
  (need.toNat + 4095) / 4096 - have_.toNat

/-- CAP of a CAPACITY value, bits [15:0] (10_state.md R26). -/
def capField (v : BitVec 48) : BitVec 16 := v.extractLsb' 0 16

/-- The reserved bits [47:16] of a CAPACITY value (10_state.md R26). -/
def capReserved (v : BitVec 48) : BitVec 32 := v.extractLsb' 16 32

/-- LIMIT of a RETRY value, bits [31:0] (10_state.md R27). -/
def limitField (v : BitVec 48) : BitVec 32 := v.extractLsb' 0 32

/-- UNBOUNDED of a RETRY value, bit [32] (10_state.md R27). -/
def unboundedField (v : BitVec 48) : Bool := v.getLsbD 32

/-- The reserved bits [47:33] of a RETRY value (10_state.md R27). -/
def retryReserved (v : BitVec 48) : BitVec 15 := v.extractLsb' 33 15

end Sys2Proof.Machine
end

