-- ==== Sys2Proof/Machine/Ops.lean ====
section
/-! DEFINITION. The named operations over the frame buffer, the cache, the CSRs and the response registers, the
end of a command (success and failure), and block reset. -/

namespace Sys2Proof.Machine

/-! ### The bytes of a frame buffer -/

/-- The byte written at address `a`, if one has been. -/
def Memory.find? : Memory → Nat → Option Byte
  | [], _ => none
  | (b, v) :: l, a => if b = a then some v else Memory.find? l a

/-- WHAT AN ADDRESS READS AS: the byte written there, or the free value of a byte not written since reset
(10_state.md R42; log entry 2). -/
def Memory.read (resets : Nat) (m : Memory) (a : Nat) : Byte :=
  (m.find? a).getD (Config.unwritten resets a)

/-- Writing one byte keeps the addresses strictly rising. -/
def Memory.write : Memory → Nat → Byte → Memory
  | [], a, v => [(a, v)]
  | (b, u) :: l, a, v =>
    if a < b then (a, v) :: (b, u) :: l
    else if a = b then (a, v) :: l
    else (b, u) :: Memory.write l a v

/-- Addresses from `lo` up, strictly rising, all below 4096 (20_memory.md R61). -/
def Memory.wfFrom (lo : Nat) : Memory → Bool
  | [] => true
  | (a, _) :: l => decide (lo ≤ a) && decide (a < frameBytes) && Memory.wfFrom (a + 1) l

/-- THE CANONICAL FORM: addresses strictly rising and below 4096. An unlisted address reads as no written byte,
so no entry can equal it (log entry 2). -/
def Memory.wf (m : Memory) : Bool := Memory.wfFrom 0 m

/-- The `n` bytes from address `a` up. -/
def Memory.bytes (resets : Nat) : Nat → Nat → Memory → List Byte
  | 0, _, _ => []
  | n + 1, a, [] => Config.unwritten resets a :: Memory.bytes resets n (a + 1) []
  | n + 1, a, (b, v) :: l =>
    if b = a then v :: Memory.bytes resets n (a + 1) l
    else Config.unwritten resets a :: Memory.bytes resets n (a + 1) ((b, v) :: l)

theorem Memory.bytes_length (resets n a : Nat) (m : Memory) : (Memory.bytes resets n a m).length = n := by
  induction n generalizing a m with
  | zero => cases m <;> rfl
  | succ n ih =>
    match m with
    | [] => simp [Memory.bytes, ih]
    | (b, v) :: l => by_cases h : b = a <;> simp [Memory.bytes, h, ih]

/-- The whole frame a buffer holds, byte `k` at address `k` (20_memory.md R63, R64). -/
def Memory.toFrame (resets : Nat) (m : Memory) : Frame :=
  ⟨(Memory.bytes resets frameBytes 0 m).toArray, by simp [Memory.bytes_length]⟩

/-- The cells of consecutive bytes from address `a` up. -/
def Memory.ofBytes : Nat → List Byte → Memory
  | _, [] => []
  | a, b :: l => (a, b) :: Memory.ofBytes (a + 1) l

/-- A buffer that holds a whole frame, byte `k` at address `k` (20_memory.md R63, R64). -/
def Memory.ofFrame (f : Frame) : Memory := Memory.ofBytes 0 f.toList

/-- MemRead(a, 1) of FBUF (00_scope.md R10). -/
def State.readFbuf (s : State) (a : BitVec 12) : Byte := s.fbuf.read s.resets a.toNat

/-- MemWrite(a, 1, v) of FBUF (00_scope.md R10). -/
def State.writeFbuf (s : State) (a : BitVec 12) (v : Byte) : State :=
  { s with fbuf := s.fbuf.write a.toNat v }

/-- FBUF as a whole frame (20_memory.md R64). -/
def State.fbufFrame (s : State) : Frame := s.fbuf.toFrame s.resets

/-! ### The end of a command -/

/-- `respond(hit, data)` (00_scope.md R10), back in IDLE (40_protocol_engine.md R121). -/
def respond (hit : Bool) (data : Word) (s : State) : State :=
  { s with fsm := .idle, rspStatus := statusWord false hit .none, rspData := data }

/-- `raise CAUSE(data)` (00_scope.md R10), THE ONE WAY A COMMAND FAILS: the response registers are written and
the engine is back in IDLE; nothing is saved and nothing has to be restored (60_exceptions.md R273, R274). -/
def raise (cause : Cause) (data : Word) (s : State) : State :=
  { s with fsm := .idle, rspStatus := statusWord true false cause, rspData := data }

/-! ### The cache -/

/-- `Match(e, sid, fidx)` (42_frame_cache.md R161). -/
def keyMatch (mode : KeyMode) (sid : StoreId) (fidx : FrameIndex) (e : CacheEntry) : Bool :=
  match mode with
  | .frameOnly => e.fidx == fidx
  | .full => e.fidx == fidx && e.sid == sid

/-- The first entry with the key and its recency position (42_frame_cache.md R162; by 10_state.md R40 the only
one). -/
def cacheFind (mode : KeyMode) (sid : StoreId) (fidx : FrameIndex) : List CacheEntry → Option (Nat × CacheEntry)
  | [] => none
  | e :: l =>
    if keyMatch mode sid fidx e then some (0, e)
    else (cacheFind mode sid fidx l).map fun r => (r.1 + 1, r.2)

/-! ### The control and status registers -/

/-- The length of CE as CCOUNT's 16 bits hold it (10_state.md R30). -/
def cacheCount (s : State) : BitVec 16 := BitVec.ofNat 16 s.ce.length

/-- MODES (10_state.md R35). -/
def modesWord (p : Params) : Word :=
  bitWord (p.keyMode == .full) ||| bitWord (p.retryPayload == .original) <<< 1
    ||| bitWord (p.layout == .msbFirst) <<< 2

/-- OPCODES (10_state.md R36). -/
def opcodesWord (m : OpcodeMap) : Word :=
  m.deviceInit.setWidth 64 ||| m.zeroAll.setWidth 64 <<< 8 ||| m.powerOff.setWidth 64 <<< 16
    ||| m.frameRead.setWidth 64 <<< 24 ||| m.frameWrite.setWidth 64 <<< 32

/-- `CSRvalue(n)`: 64 bits, the unused ones 0 (10_state.md R25 to R36). -/
def csrValue (s : State) : Csr → Word
  | .capacity => s.capacity.setWidth 64
  | .retry => s.retryLimit.setWidth 64 ||| bitWord s.retryUnbounded <<< 32
  | .status => bitWord s.powered ||| bitWord s.cfgFault <<< 1
  | .ffc => s.ffc.setWidth 64
  | .ccount => (cacheCount s).setWidth 64
  | .lastRsp => s.lastRsp
  | .lastAttempts => s.lastAttempts.setWidth 64
  | .devframes => s.params.deviceFrames.setWidth 64
  | .capmax => s.params.capMax.setWidth 64
  | .modes => modesWord s.params
  | .opcodes => opcodesWord s.params.opcodes

/-! ### The checksum and the bus -/

/-- CSUM_SUM: the sum of the 4096 bytes modulo 2^32 (40_protocol_engine.md R114). -/
def csumSum (f : Frame) : BitVec 32 := BitVec.ofNat 32 (f.toList.foldl (fun acc b => acc + b.toNat) 0)

/-- CSUM (40_protocol_engine.md R114). -/
def csum (k : CsumKind) (f : Frame) : BitVec 32 :=
  match k with
  | .sum => csumSum f
  | .other n => Config.csumOther n f

/-- ATT + 1, saturating at 0xFFFFFFFF (40_protocol_engine.md R120). -/
def satInc (n : BitVec 32) : BitVec 32 := if n = 0xFFFFFFFF then n else n + 1

/-- The bus's answer to an exchange, and the bus after it; `none` if it never answers
(40_protocol_engine.md R127). -/
def busNext (b : BusSource) (req : Word) (payload : Frame) : Option (BusAnswer × BusSource) :=
  match b.listed with
  | a :: l => some (a, { b with listed := l })
  | [] =>
    match b.later with
    | .silent => none
    | .repeating a => some (a, b)
    | .free k => (Config.busAnswer k req payload).map fun a => (a, { b with later := .free (k + 1) })

/-! ### Block reset -/

/-- The bus after the answer to the outstanding exchange is discarded (70_reset_and_hazards.md R301; log
entry 8). -/
def busDiscard (b : BusSource) : BusSource :=
  match b.listed, b.later with
  | _ :: l, _ => { b with listed := l }
  | [], .free k => { b with later := .free (k + 1) }
  | [], .silent => b
  | [], .repeating _ => b

/-- Block reset (70_reset_and_hazards.md R300): every piece of the block's state at its reset value, whatever was
in progress, without a response; the answer of an exchange that was outstanding is discarded (R301). -/
def blockReset (s : State) : State :=
  { State.resetOf s.params with
    port := s.port
    bus := if s.fsm = .xchg then busDiscard s.bus else s.bus
    resets := s.resets + 1 }

end Sys2Proof.Machine
end

