-- ==== Sys2Proof/Machine/Allocator.lean ====
section
/-! DEFINITION. The monotonic frame allocator (43_frame_allocator.md). -/

namespace Sys2Proof.Machine

/-- ALLOC (43_frame_allocator.md R190): all the frames a file needs or none, in exact arithmetic. -/
def execAlloc (have_ : BitVec 20) (need : BitVec 32) (s : State) : Host.Outcome State Fault Refusal :=
  if s.powered then
    let k := framesNeeded have_ need
    if 0 < k ∧ s.params.deviceFrames.toNat < s.ffc.toNat + k then .next (raise .outOfFrames 0 s)
    else .next (respond false (allocData k s.ffc) { s with ffc := BitVec.ofNat 17 (s.ffc.toNat + k) })
  else .next (raise .notPoweredOn 0 s)

end Sys2Proof.Machine
end

