-- ==== Sys2Proof/Machine/Engine.lean ====
section
/-! DEFINITION. The register protocol engine: the control states PREP, XCHG and CHECK of
40_protocol_engine.md R121, and the command EXEC (R116). -/

namespace Sys2Proof.Machine

/-- `P`, the payload of an attempt (40_protocol_engine.md R117). -/
def payload (s : State) : Frame :=
  match s.params.retryPayload with
  | .current => s.fbuf.toFrame s.resets
  | .original => s.save.toFrame s.resets

/-- The checksum field of a request (40_protocol_engine.md R113). -/
def requestChecksum (s : State) : BitVec 32 :=
  if s.lOpc = s.params.opcodes.frameWrite then csum s.params.csum (payload s) else 0

/-- The request of an attempt (40_protocol_engine.md R113, R122; 30_encoding.md R94). -/
def requestWord (s : State) : Word :=
  pack s.params.layout ⟨s.lOpc, s.lFidx, requestChecksum s, 0⟩

/-- PREP: the request is built and the exchange issued (40_protocol_engine.md R121). -/
def prepare (s : State) : State := { s with req := requestWord s, fsm := .xchg }

/-- XCHG: the request `w` is presented to the bus. Its answer goes to FBUF and LAST_RSP and is counted
(40_protocol_engine.md R118, R120); while the bus does not answer the engine waits in XCHG (R121; log entry 6). -/
def exchange (w : Word) (s : State) : State :=
  match busNext s.bus w (payload s) with
  | none => s
  | some (ans, bus') =>
    { s with bus := bus', fbuf := Memory.ofFrame ans.frame, lastRsp := ans.word, att := satInc s.att,
             lastAttempts := satInc s.att, fsm := .check }

/-- `Success(w', b')` (40_protocol_engine.md R115). -/
def success (p : Params) (w : Word) (b : Frame) : Bool :=
  let r := unpack p.layout w
  if r.opcode = p.opcodes.frameRead then csum p.csum b == r.checksum else r.returnCode == 0

/-- No attempt is left: a bound applies and this failed attempt is past it (40_protocol_engine.md R119). -/
def exhausted (s : State) : Bool := !s.retryUnbounded && decide (s.retryLimit < s.att)

/-- CHECK: the answer, now in LAST_RSP and FBUF, is judged (40_protocol_engine.md R121). -/
def judge (s : State) : State :=
  if success s.params s.lastRsp s.fbufFrame then respond false s.lastRsp s
  else if exhausted s then raise .retryExhausted s.lastRsp s
  else { s with fsm := .prep }

/-- What EXEC latches at its start (40_protocol_engine.md R116, R120, R122). -/
def latch (opc : BitVec 8) (fidx : FrameIndex) (s : State) : State :=
  { s with lOpc := opc, lFidx := fidx, att := 0,
           save := if s.params.retryPayload = .original then s.fbuf else s.save,
           fsm := .prep }

/-- EXEC (40_protocol_engine.md R116): the power check, then into the retry loop, which the control states
`prepare`, `exchange` and `judge` carry out (R121). -/
def execExec (opc : BitVec 8) (fidx : FrameIndex) (s : State) : Host.Outcome State Fault Refusal :=
  if s.powered then .next (latch opc fidx s) else .next (raise .notPoweredOn 0 s)

end Sys2Proof.Machine
end

