-- ==== Sys2Proof/Machine/BusOpcodes.lean ====
section
/-! DEFINITION. The five bus opcodes (41_bus_opcodes.md): each is a request outstanding in XCHG, and its effect on
the block is that of the exchange (R146, R147). What tells the opcodes apart for the block is the checksum of the
request (`requestChecksum`, R113) and the judging of the answer (`success`, R115). -/

namespace Sys2Proof.Machine

/-- OP_DEVICE_INIT (41_bus_opcodes.md R140). -/
def execOpDeviceInit (fidx : FrameIndex) (csum : BitVec 32) (rc : BitVec 8) (s : State) :
    Host.Outcome State Fault Refusal :=
  .next (exchange (pack s.params.layout ⟨s.params.opcodes.deviceInit, fidx, csum, rc⟩) s)

/-- OP_ZERO_ALL (41_bus_opcodes.md R141). -/
def execOpZeroAll (fidx : FrameIndex) (csum : BitVec 32) (rc : BitVec 8) (s : State) :
    Host.Outcome State Fault Refusal :=
  .next (exchange (pack s.params.layout ⟨s.params.opcodes.zeroAll, fidx, csum, rc⟩) s)

/-- OP_POWER_OFF (41_bus_opcodes.md R142): POWERED is not changed. -/
def execOpPowerOff (fidx : FrameIndex) (csum : BitVec 32) (rc : BitVec 8) (s : State) :
    Host.Outcome State Fault Refusal :=
  .next (exchange (pack s.params.layout ⟨s.params.opcodes.powerOff, fidx, csum, rc⟩) s)

/-- OP_FRAME_READ (41_bus_opcodes.md R143). -/
def execOpFrameRead (fidx : FrameIndex) (csum : BitVec 32) (rc : BitVec 8) (s : State) :
    Host.Outcome State Fault Refusal :=
  .next (exchange (pack s.params.layout ⟨s.params.opcodes.frameRead, fidx, csum, rc⟩) s)

/-- OP_FRAME_WRITE (41_bus_opcodes.md R144). -/
def execOpFrameWrite (fidx : FrameIndex) (csum : BitVec 32) (rc : BitVec 8) (s : State) :
    Host.Outcome State Fault Refusal :=
  .next (exchange (pack s.params.layout ⟨s.params.opcodes.frameWrite, fidx, csum, rc⟩) s)

end Sys2Proof.Machine
end

