-- ==== Sys2Proof/Machine/Cache.lean ====
section
/-! DEFINITION. The bounded frame cache's commands (42_frame_cache.md). -/

namespace Sys2Proof.Machine

/-- CLOOKUP (42_frame_cache.md R162): a hit copies the entry to FBUF and reports its recency position; CE is never
written. -/
def execClookup (sid : StoreId) (fidx : FrameIndex) (s : State) : Host.Outcome State Fault Refusal :=
  if s.powered then
    match cacheFind s.params.keyMode sid fidx s.ce with
    | some (i, e) => .next (respond true (BitVec.ofNat 64 i) { s with fbuf := e.data })
    | none => .next (respond false 0 s)
  else .next (raise .notPoweredOn 0 s)

/-- The entry CUPSERT stores: the key of the command, the content of FBUF (42_frame_cache.md R163). -/
def newEntry (sid : StoreId) (fidx : FrameIndex) (s : State) : CacheEntry :=
  { sid := sid, fidx := fidx, data := s.fbuf }

/-- CUPSERT's four steps (42_frame_cache.md R163): the new CE and RSP_DATA. -/
def upsert (sid : StoreId) (fidx : FrameIndex) (s : State) : List CacheEntry × Word :=
  match s.ce with
  | [] => ([newEntry sid fidx s], 1)
  | t :: l =>
    match cacheFind s.params.keyMode sid fidx s.ce with
    | some (i, e) => ({ e with data := s.fbuf } :: s.ce.eraseIdx i, upsertData 0x02 e)
    | none =>
      if s.ce.length < s.capacity.toNat then (newEntry sid fidx s :: s.ce, 3)
      else (newEntry sid fidx s :: s.ce.dropLast, upsertData 0x04 ((t :: l).getLast (by simp)))

/-- CUPSERT (42_frame_cache.md R163): insert or update as the most recent entry, evicting the tail at capacity. -/
def execCupsert (sid : StoreId) (fidx : FrameIndex) (s : State) : Host.Outcome State Fault Refusal :=
  if s.powered then
    .next (respond false (upsert sid fidx s).2 { s with ce := (upsert sid fidx s).1 })
  else .next (raise .notPoweredOn 0 s)

end Sys2Proof.Machine
end

