-- ==== Sys2Proof/Machine/ControlRegisters.lean ====
section
/-! DEFINITION. The control and status registers (44_lifecycle_access.md R204, R205; 10_state.md R25 to R37). -/

namespace Sys2Proof.Machine

/-- CSRR (44_lifecycle_access.md R204): every defined CSR reads, a reserved number fails BAD_COMMAND. -/
def execCsrr (csr : BitVec 8) (s : State) : Host.Outcome State Fault Refusal :=
  match csrOfNumber csr with
  | some r => .next (respond false (csrValue s r) s)
  | none => .next (raise .badCommand 0 s)

/-- A write to CAPACITY, its checks in the order of 44_lifecycle_access.md R205 and 60_exceptions.md R272: reserved
value bits, then the power state (CFG_LATE, setting CFG_FAULT), then the range. -/
def writeCapacity (v : BitVec 48) (s : State) : State :=
  if capReserved v ≠ 0 then raise .badCommand 0 s
  else if s.powered then raise .cfgLate 0 { s with cfgFault := true }
  else if capField v = 0 ∨ s.params.capMax < capField v then raise .badCommand 0 s
  else respond false 0 { s with capacity := capField v }

/-- A write to RETRY, in either power state (44_lifecycle_access.md R205). -/
def writeRetry (v : BitVec 48) (s : State) : State :=
  if retryReserved v ≠ 0 then raise .badCommand 0 s
  else respond false 0 { s with retryLimit := limitField v, retryUnbounded := unboundedField v }

/-- CSRW (44_lifecycle_access.md R205): reserved and read-only numbers fail BAD_COMMAND. -/
def execCsrw (csr : BitVec 8) (value : BitVec 48) (s : State) : Host.Outcome State Fault Refusal :=
  match csrOfNumber csr with
  | some .capacity => .next (writeCapacity value s)
  | some .retry => .next (writeRetry value s)
  | some .status | some .ffc | some .ccount | some .lastRsp | some .lastAttempts => .next (raise .badCommand 0 s)
  | some .devframes | some .capmax | some .modes | some .opcodes => .next (raise .badCommand 0 s)
  | none => .next (raise .badCommand 0 s)

end Sys2Proof.Machine
end

