-- ==== Sys2Proof/Machine/FrameBuffer.lean ====
section
/-! DEFINITION. The host's access to the frame buffer, one byte at a time, in both power states
(44_lifecycle_access.md R202, R203, R206). -/

namespace Sys2Proof.Machine

/-- FBRD (44_lifecycle_access.md R202). -/
def execFbrd (addr : BitVec 12) (s : State) : Host.Outcome State Fault Refusal :=
  .next (respond false ((s.readFbuf addr).setWidth 64) s)

/-- FBWR (44_lifecycle_access.md R203). -/
def execFbwr (addr : BitVec 12) (data : Byte) (s : State) : Host.Outcome State Fault Refusal :=
  .next (respond false 0 (s.writeFbuf addr data))

end Sys2Proof.Machine
end

