-- ==== Sys2Proof/Machine/Lifecycle.lean ====
section
/-! DEFINITION. The power lifecycle (44_lifecycle_access.md R200, R201; 60_exceptions.md R283). -/

namespace Sys2Proof.Machine

/-- PWR_ON (44_lifecycle_access.md R200): no effect while on; from off an empty cache and a fresh counter. -/
def execPwrOn (s : State) : Host.Outcome State Fault Refusal :=
  if s.powered then .next (respond false 0 s)
  else .next (respond false 0 { s with powered := true, ce := [], ffc := 0 })

/-- PWR_OFF (44_lifecycle_access.md R201): every cache entry is released; FFC keeps its value. -/
def execPwrOff (s : State) : Host.Outcome State Fault Refusal :=
  if s.powered then .next (respond false 0 { s with ce := [], powered := false })
  else .next (raise .notPoweredOn 0 s)

end Sys2Proof.Machine
end

