-- ==== Sys2Proof/Machine/Dispatch.lean ====
section
/-! DEFINITION. One arm per row of spec/opcode_table.json. -/

namespace Sys2Proof.Machine

def exec (i : Instr) (s : State) : Host.Outcome State Fault Refusal :=
  match i with
  | .pwrOn => Sys2Proof.Machine.execPwrOn s
  | .pwrOff => Sys2Proof.Machine.execPwrOff s
  | .exec opc fidx => Sys2Proof.Machine.execExec opc fidx s
  | .clookup sid fidx => Sys2Proof.Machine.execClookup sid fidx s
  | .cupsert sid fidx => Sys2Proof.Machine.execCupsert sid fidx s
  | .alloc have_ need => Sys2Proof.Machine.execAlloc have_ need s
  | .fbrd addr => Sys2Proof.Machine.execFbrd addr s
  | .fbwr addr data => Sys2Proof.Machine.execFbwr addr data s
  | .csrr csr => Sys2Proof.Machine.execCsrr csr s
  | .csrw csr value => Sys2Proof.Machine.execCsrw csr value s
  | .opDeviceInit fidx csum rc => Sys2Proof.Machine.execOpDeviceInit fidx csum rc s
  | .opZeroAll fidx csum rc => Sys2Proof.Machine.execOpZeroAll fidx csum rc s
  | .opPowerOff fidx csum rc => Sys2Proof.Machine.execOpPowerOff fidx csum rc s
  | .opFrameRead fidx csum rc => Sys2Proof.Machine.execOpFrameRead fidx csum rc s
  | .opFrameWrite fidx csum rc => Sys2Proof.Machine.execOpFrameWrite fidx csum rc s

end Sys2Proof.Machine
end

