-- ==== Sys2Proof/Machine/Fetch.lean ====
section
/-! DEFINITION. Where the next instruction comes from: the command port in IDLE, the request REQ in XCHG; and the
transitions of 40_protocol_engine.md R121 that run no instruction. -/

namespace Sys2Proof.Machine

/-- What a step does. -/
inductive Fetched where
  /-- A transition with no instruction. -/
  | internal (s : State)
  /-- The instruction `i` runs in the state `s`. -/
  | run (i : Instr) (s : State)
  deriving DecidableEq, Repr

/-- IDLE: the port accepts one word (92_eei_decisions.md D2); an illegal one fails BAD_COMMAND with no other effect
(30_encoding.md R89); with none the block waits (70_reset_and_hazards.md R302; log entry 7). -/
def acceptCommand (s : State) : Fetched :=
  match s.port with
  | [] => .internal s
  | w :: rest =>
    match decode w with
    | .instr i => .run i { s with port := rest }
    | .illegal _ => .internal (raise .badCommand 0 { s with port := rest })

/-- XCHG: the outstanding request runs; an opcode with no row is exchanged all the same (30_encoding.md R93,
41_bus_opcodes.md R145). -/
def runRequest (s : State) : Fetched :=
  match decodeBus s.params s.req with
  | some i => .run i s
  | none => .internal (exchange s.req s)

/-- Block reset comes first (70_reset_and_hazards.md R300, R301), then the control state decides
(40_protocol_engine.md R121). -/
def fetch (s : State) : Fetched :=
  if s.resetPin then .internal (blockReset s)
  else match s.fsm with
    | .idle => acceptCommand s
    | .prep => .internal (prepare s)
    | .xchg => runRequest s
    | .check => .internal (judge s)

/-- A word of spec/opcode_table.json placed where the next step takes its instruction: a command word at the head
of the port in IDLE, a bus register word as the request outstanding in XCHG (log entry 11). -/
def placeWord (s : State) (nbits w : Nat) : State :=
  let word := BitVec.ofNat 64 (w % 2 ^ nbits)
  if isBusTableWord s.params nbits w then { s with req := word, fsm := .xchg, resetPin := false }
  else { s with port := word :: s.port, fsm := .idle, resetPin := false }

end Sys2Proof.Machine
end

