-- ==== Sys2Proof/Machine/Step.lean ====
section
/-! DEFINITION. One step: one transition of the engine's control state machine (40_protocol_engine.md R121; log
entry 9). -/

namespace Sys2Proof.Machine

/-- One step of the block. -/
def step (s : State) : Host.Outcome State Fault Refusal :=
  match fetch s with
  | .internal s' => .next s'
  | .run i s' => exec i s'

/-- `s` with a word of spec/opcode_table.json where `step` fetches its next instruction (log entry 11). -/
def State.withFetchWord (s : State) (nbits w : Nat) : State := placeWord s nbits w

end Sys2Proof.Machine
end

