-- ==== Sys2Proof/Machine/Assembler.lean ====
section
/-! DEFINITION. The assembler syntax of 30_encoding.md R95 and the pseudo-instructions of R96 (log entry 20). -/

namespace Sys2Proof.Machine

/-! ### Text -/

/-- The value of a digit, in either case. -/
def digitValue (c : Char) : Option Nat :=
  let n := c.toNat
  if 48 ≤ n ∧ n ≤ 57 then some (n - 48)
  else if 97 ≤ n ∧ n ≤ 102 then some (n - 87)
  else if 65 ≤ n ∧ n ≤ 70 then some (n - 55)
  else none

/-- Digits of a base below 17, most significant first, after the value `acc`. -/
def digitsValue (base : Nat) : Nat → List Char → Option Nat
  | acc, [] => some acc
  | acc, c :: l =>
    match digitValue c with
    | some d => if d < base then digitsValue base (acc * base + d) l else none
    | none => none

/-- A decimal or `0x` hexadecimal number (30_encoding.md R95). -/
def numberOf : List Char → Option Nat
  | [] => none
  | '0' :: 'x' :: c :: l => digitsValue 16 0 (c :: l)
  | c :: l => digitsValue 10 0 (c :: l)

/-- A blank. -/
def isBlank (c : Char) : Bool := c == ' ' || c == '\t'

/-- The text without the blanks at its ends. -/
def trimBlanks (l : List Char) : List Char :=
  ((l.dropWhile isBlank).reverse.dropWhile isBlank).reverse

/-- The pieces between commas. -/
def splitCommas : List Char → List (List Char)
  | [] => [[]]
  | c :: l =>
    match splitCommas l with
    | [] => [[c]]
    | p :: ps => if c = ',' then [] :: p :: ps else (c :: p) :: ps

/-! ### Operands -/

/-- The opcode names an `opc` operand may use (30_encoding.md R92, R95). -/
def opcodeNames (m : OpcodeMap) : List (List Char × Nat) :=
  [("OP_DEVICE_INIT".toList, m.deviceInit.toNat), ("OP_ZERO_ALL".toList, m.zeroAll.toNat),
   ("OP_POWER_OFF".toList, m.powerOff.toNat), ("OP_FRAME_READ".toList, m.frameRead.toNat),
   ("OP_FRAME_WRITE".toList, m.frameWrite.toNat)]

/-- The names of the CSRs (10_state.md R25). -/
def csrNames : List (List Char × Nat) :=
  [("CAPACITY".toList, 0x00), ("RETRY".toList, 0x01), ("STATUS".toList, 0x02), ("FFC".toList, 0x03),
   ("CCOUNT".toList, 0x04), ("LAST_RSP".toList, 0x05), ("LAST_ATTEMPTS".toList, 0x06), ("DEVFRAMES".toList, 0x07),
   ("CAPMAX".toList, 0x08), ("MODES".toList, 0x09), ("OPCODES".toList, 0x0A)]

/-- A number, or a name of the table. -/
def operandOf (names : List (List Char × Nat)) (t : List Char) : Option Nat :=
  match numberOf t with
  | some n => some n
  | none => names.lookup t

/-- A number in a field of `w` bits; one that does not fit is an assembly error (30_encoding.md R95). -/
def fitting (w n : Nat) : Option (BitVec w) :=
  if n < 2 ^ w then some (BitVec.ofNat w n) else none

/-! ### Lines -/

/-- The first operand of a line may be named: an `opc` or a `csr` (30_encoding.md R95). -/
def firstNames (p : Params) (mnemonic : List Char) : List (List Char × Nat) :=
  if mnemonic = "EXEC".toList then opcodeNames p.opcodes
  else if mnemonic = "CSRR".toList ∨ mnemonic = "CSRW".toList then csrNames
  else []

/-- The values of a line's operands. -/
def operandValues (p : Params) (mnemonic : List Char) : List (List Char) → Option (List Nat)
  | [] => some []
  | first :: rest => do
    let a ← operandOf (firstNames p mnemonic) first
    let l ← rest.mapM numberOf
    return a :: l

/-- A command of 30_encoding.md R95. -/
def commandOf (mnemonic : List Char) (ops : List Nat) : Option Instr :=
  match ops with
  | [] =>
    if mnemonic = "PWR_ON".toList then some .pwrOn
    else if mnemonic = "PWR_OFF".toList then some .pwrOff
    else none
  | [a] =>
    if mnemonic = "FBRD".toList then do return .fbrd (← fitting 12 a)
    else if mnemonic = "CSRR".toList then do return .csrr (← fitting 8 a)
    else none
  | [a, b] =>
    if mnemonic = "EXEC".toList then do return .exec (← fitting 8 a) (← fitting 16 b)
    else if mnemonic = "CLOOKUP".toList then do return .clookup (← fitting 8 a) (← fitting 16 b)
    else if mnemonic = "CUPSERT".toList then do return .cupsert (← fitting 8 a) (← fitting 16 b)
    else if mnemonic = "ALLOC".toList then do return .alloc (← fitting 20 a) (← fitting 32 b)
    else if mnemonic = "FBWR".toList then do return .fbwr (← fitting 12 a) (← fitting 8 b)
    else if mnemonic = "CSRW".toList then do return .csrw (← fitting 8 a) (← fitting 48 b)
    else none
  | _ => none

/-- A pseudo-instruction's expansion (30_encoding.md R96). -/
def pseudoOf (p : Params) (mnemonic : List Char) (ops : List Nat) : Option (List Instr) :=
  match ops with
  | [] =>
    if mnemonic = "DEVINIT".toList then some [.exec p.opcodes.deviceInit 0]
    else if mnemonic = "ZEROALL".toList then some [.exec p.opcodes.zeroAll 0]
    else if mnemonic = "DEVOFF".toList then some [.exec p.opcodes.powerOff 0]
    else if mnemonic = "UNBOUND".toList then some [.csrw Csr.retry.number 0x100000000]
    else none
  | [a] =>
    if mnemonic = "FREAD".toList then do return [.exec p.opcodes.frameRead (← fitting 16 a)]
    else if mnemonic = "FWRITE".toList then do return [.exec p.opcodes.frameWrite (← fitting 16 a)]
    else if mnemonic = "SETCAP".toList then do return [.csrw Csr.capacity.number (← fitting 48 a)]
    else if mnemonic = "SETRETRY".toList then do
      return [.csrw Csr.retry.number ((← fitting 32 a).setWidth 48)]
    else none
  | [a, b, v] =>
    if mnemonic = "FBFILL".toList ∧ a ≤ b then do
      let v' ← fitting 8 v
      (List.range (b - a + 1)).mapM fun j => do return .fbwr (← fitting 12 (a + j)) v'
    else none
  | _ => none

/-- The command words of one line: a command, a pseudo-instruction, or nothing but blanks and a comment; `none` is
an assembly error (30_encoding.md R95, R96). -/
def assembleLine (p : Params) (line : String) : Option (List Word) :=
  let text := trimBlanks (line.toList.takeWhile fun c => c != ';')
  let mnemonic := text.takeWhile fun c => !isBlank c
  let tail := trimBlanks (text.dropWhile fun c => !isBlank c)
  if text = [] then some []
  else do
    let ops ← operandValues p mnemonic (if tail = [] then [] else (splitCommas tail).map trimBlanks)
    let l ← match commandOf mnemonic ops with
      | some i => some [i]
      | none => pseudoOf p mnemonic ops
    return l.map (encode p)

end Sys2Proof.Machine
end

