-- ==== Sys2Proof/Machine/RefBus.lean ====
section
/-! DEFINITION. The reference bus and its faulty variants (41_bus_opcodes.md R148, R149): a test fixture beside the
block, on which no meaning depends (00_scope.md R6 (2); log entry 19). -/

namespace Sys2Proof.Machine

/-- The all-zero frame Z (41_bus_opcodes.md R148). -/
def zeroFrame : Frame := frameOf fun _ => 0

/-- DEV: the device's frames by index; a frame that is not listed is all zero (41_bus_opcodes.md R148). -/
abbrev Device := List (Nat × Frame)

/-- DEV[f]. -/
def deviceRead : Device → Nat → Frame
  | [], _ => zeroFrame
  | (g, x) :: l, f => if g = f then x else deviceRead l f

/-- DEV[f] <- x. -/
def deviceWrite (d : Device) (f : Nat) (x : Frame) : Device := (f, x) :: d.filter fun c => c.1 != f

/-- RB(w, P) (41_bus_opcodes.md R148): the answer and the device after it. -/
def refBusAnswer (p : Params) (dev : Device) (w : Word) (payload : Frame) : BusAnswer × Device :=
  let r := unpack p.layout w
  let op := p.opcodes
  let f := r.frame.toNat
  let answer (c : BitVec 32) (rc : BitVec 8) (b : Frame) : BusAnswer :=
    { word := pack p.layout { r with checksum := c, returnCode := rc }, frame := b }
  if (r.opcode = op.frameRead ∨ r.opcode = op.frameWrite) ∧ p.deviceFrames.toNat ≤ f then
    (answer 0 0x01 zeroFrame, dev)
  else if r.opcode = op.frameRead then
    (answer (csum p.csum (deviceRead dev f)) 0x00 (deviceRead dev f), dev)
  else if r.opcode = op.frameWrite then
    if csum p.csum payload = r.checksum then (answer r.checksum 0x00 payload, deviceWrite dev f payload)
    else (answer r.checksum 0x02 payload, dev)
  else if r.opcode = op.zeroAll then (answer 0 0x00 payload, [])
  else if r.opcode = op.deviceInit ∨ r.opcode = op.powerOff then (answer 0 0x00 payload, dev)
  else (answer 0 0x03 payload, dev)

/-- The reference bus's variants (41_bus_opcodes.md R149); `k` counts the faulty answers still to come. -/
inductive RefBusKind where
  | plain
  | corrupt (k : Nat)
  | writeFail (k : Nat)
  | dead
  deriving DecidableEq, Repr

/-- A reference bus: its variant and its device. -/
structure RefBus where
  kind : RefBusKind
  dev  : Device
  deriving DecidableEq, Repr

/-- The answer of a variant and the bus after it (41_bus_opcodes.md R149): identical to RB except as R149 states, so
RB_DEAD, of which only the answers are stated, keeps RB's effect on DEV. -/
def refBusNext (p : Params) (b : RefBus) (w : Word) (payload : Frame) : BusAnswer × RefBus :=
  let r := unpack p.layout w
  let plain := refBusAnswer p b.dev w payload
  match b.kind with
  | .plain => (plain.1, { b with dev := plain.2 })
  | .corrupt 0 => (plain.1, { b with dev := plain.2 })
  | .corrupt (k + 1) =>
    if r.opcode = p.opcodes.frameRead ∧ r.frame.toNat < p.deviceFrames.toNat then
      ({ plain.1 with frame := plain.1.frame.set 0 (plain.1.frame[0] ^^^ 0x01) }, { b with kind := .corrupt k })
    else (plain.1, { b with dev := plain.2 })
  | .writeFail 0 => (plain.1, { b with dev := plain.2 })
  | .writeFail (k + 1) =>
    if r.opcode = p.opcodes.frameWrite then
      ({ word := pack p.layout { r with returnCode := 0x02 }, frame := zeroFrame }, { b with kind := .writeFail k })
    else (plain.1, { b with dev := plain.2 })
  | .dead =>
    ({ word := pack p.layout { r with checksum := csum p.csum zeroFrame ^^^ 1, returnCode := 0x02 },
       frame := zeroFrame }, { b with dev := plain.2 })

/-- The block on a test bench: with a fixture, it answers every exchange the block's own `bus` has no listed answer
for; without one, the block meets the bus of its state. -/
structure Bench where
  block   : State
  fixture : Option RefBus
  deriving DecidableEq, Repr

/-- The fixture answers the outstanding exchange. -/
def benchAnswer (b : Bench) : Bench :=
  match b.fixture with
  | none => b
  | some rb =>
    if b.block.fsm = .xchg ∧ b.block.bus.listed = [] then
      let r := refBusNext b.block.params rb b.block.req (payload b.block)
      { block := { b.block with bus := { b.block.bus with listed := [r.1] } }, fixture := some r.2 }
    else b

/-- One step of the bench. -/
def benchTick (b : Bench) : Host.Outcome Bench Fault Refusal :=
  match step (benchAnswer b).block with
  | .next s => .next { benchAnswer b with block := s }
  | .fault f => .fault f
  | .refused r => .refused r

/-- Ticks until the command in progress has responded and the port is empty; `none` if that takes more than
`fuel` ticks: the command hangs or is stuck as far as this host has waited (log entry 18). -/
def benchRun : Nat → Bench → Option Bench
  | 0, b => if b.block.fsm = .idle ∧ b.block.port = [] then some b else none
  | fuel + 1, b =>
    if b.block.fsm = .idle ∧ b.block.port = [] then some b
    else match benchTick b with
      | .next b' => benchRun fuel b'
      | .fault _ => none
      | .refused _ => none

/-- The host issues one command word and waits for its response (92_eei_decisions.md D2). -/
def benchCommand (fuel : Nat) (w : Word) (b : Bench) : Option Bench :=
  benchRun fuel { b with block := { b.block with port := [w] } }

end Sys2Proof.Machine
end

