-- ==== Sys2Proof/Machine/HostDriver.lean ====
section
/-! DEFINITION. The reference host driver (47_host_driver.md): the file table and handles of DD as a program that
drives the block through its commands. No part of the block (00_scope.md R6 (3)); no meaning depends on it. -/

namespace Sys2Proof.Machine

/-- NAME_MATCH (47_host_driver.md R232). -/
inductive NameMatch where
  | prefixes
  | exact
  deriving DecidableEq, Repr

/-- SIZE_MODE (47_host_driver.md R238). -/
inductive SizeMode where
  | grow
  | max
  deriving DecidableEq, Repr

/-- The host driver's parameters and their defaults (47_host_driver.md R230); MAX_FILES and MAX_HANDLES are OPEN. -/
structure DriverParams where
  maxFiles   : Nat
  maxHandles : Nat
  nameMatch  : NameMatch := .prefixes
  sizeMode   : SizeMode := .grow
  /-- The host also wants the device told: it sends `DEVINIT` after power-on and `DEVOFF` before power-off
  (47_host_driver.md R231). A parameter, DESIGN CHOICE; its default is what 70_reset_and_hazards.md R304 (5) says of
  the reference host driver (log entry 22). -/
  tellDevice : Bool := true
  deriving DecidableEq, Repr

/-- A file of FT; FCOUNT is the length of FRAMES (47_host_driver.md R230). -/
structure DriverFile where
  name   : List Byte
  size   : Nat
  frames : List FrameIndex
  deriving DecidableEq, Repr

/-- A handle of HT: FILE as an index of FT (47_host_driver.md R230). -/
structure DriverHandle where
  file   : Option Nat
  cursor : Option Nat
  isOpen : Bool
  deriving DecidableEq, Repr

/-- The whole system: the block on its bench, and the host's tables (47_host_driver.md R230). -/
structure Driver where
  bench   : Bench
  files   : List DriverFile
  handles : List DriverHandle
  cfg     : DriverParams
  /-- `dst`, the buffer of the caller that `read` copies into (47_host_driver.md R236; log entry 23). -/
  dst     : List Byte
  /-- How many steps the host waits for one response before the model stops waiting (log entry 18). -/
  patience : Nat
  deriving DecidableEq, Repr

/-- The causes behind the host's single failure sentinel (47_host_driver.md R241). -/
inductive DriverFailure where
  | invalidHandle
  | seekOutOfRange
  | tableFull
  /-- A cause the block reported in RSP_STATUS.CAUSE. -/
  | ofBlock (cause : BitVec 4)
  deriving DecidableEq, Repr

/-- How a procedure ends. -/
inductive DriverOutcome (α : Type) where
  | ok (value : α) (d : Driver)
  | failed (why : DriverFailure) (d : Driver)
  | fault (f : Fault)
  /-- A command gave no response in `patience` steps (60_exceptions.md R275 (3), (4)). -/
  | noResponse
  deriving DecidableEq, Repr

/-- One procedure after another. -/
def andThen {α β : Type} (o : DriverOutcome α) (k : α → Driver → DriverOutcome β) : DriverOutcome β :=
  match o with
  | .ok a d => k a d
  | .failed why d => .failed why d
  | .fault f => .fault f
  | .noResponse => .noResponse

/-- HOST_SID (47_host_driver.md R230). -/
def hostSid : StoreId := 0

/-- `cmd(...)`: one command and its response (47_host_driver.md). -/
def issue (i : Instr) (d : Driver) : DriverOutcome Unit :=
  match benchCommand d.patience (encode d.bench.block.params i) d.bench with
  | some b => .ok () { d with bench := b }
  | none => .noResponse

/-- `if RSP_STATUS.FAIL = 1: fail RSP_STATUS.CAUSE` (47_host_driver.md R235). -/
def checked (o : DriverOutcome Unit) : DriverOutcome Unit :=
  andThen o fun _ d =>
    if failFlag d.bench.block.rspStatus then .failed (.ofBlock (causeField d.bench.block.rspStatus)) d
    else .ok () d

/-- The power check every procedure starts with, by CSR STATUS (47_host_driver.md R231). -/
def whenPowered {α : Type} (d : Driver) (k : Driver → DriverOutcome α) : DriverOutcome α :=
  andThen (issue (.csrr Csr.status.number) d) fun _ d =>
    if d.bench.block.rspData.getLsbD 0 then k d else .failed (.ofBlock Cause.notPoweredOn.code) d

/-- The handle check after it (47_host_driver.md R241): the handle is open on a file with a cursor. -/
def whenOpen {α : Type} (d : Driver) (h : Nat) (k : Nat → DriverFile → Nat → DriverOutcome α) : DriverOutcome α :=
  match d.handles[h]? with
  | some ⟨some i, some c, true⟩ =>
    match d.files[i]? with
    | some f => k i f c
    | none => .failed .invalidHandle d
  | _ => .failed .invalidHandle d

/-- NameMatch (47_host_driver.md R232). -/
def nameMatches (mode : NameMatch) (stored query : List Byte) : Bool :=
  match mode with
  | .prefixes => query.isPrefixOf stored
  | .exact => stored == query

/-! ### Power -/

/-- Telling the device, when the host wants it: one EXEC at frame index 0 (92_eei_decisions.md D28), whose response
`judged` looks at. -/
def notifyDevice (opc : BitVec 8) (judged : DriverOutcome Unit → DriverOutcome Unit) (d : Driver) :
    DriverOutcome Unit :=
  if d.cfg.tellDevice then judged (issue (.exec opc 0) d) else .ok () d

/-- Host power-on: PWR_ON, both tables emptied, then `DEVINIT` when the host wants the device told (47_host_driver.md
R231, 70_reset_and_hazards.md R304 (5)). Whether it does is the parameter `tellDevice`; that a `DEVINIT` that fails
fails the power-on is the model's choice (DESIGN CHOICE, log entry 22). -/
def hostPowerOn (d : Driver) : DriverOutcome Unit :=
  andThen (checked (issue .pwrOn d)) fun _ d =>
    let d := { d with files := [], handles := [] }
    notifyDevice d.bench.block.params.opcodes.deviceInit checked d

/-- Host power-off: both tables are emptied, `DEVOFF` is sent when the host wants the device told, then PWR_OFF
(47_host_driver.md R231). That PWR_OFF follows whatever `DEVOFF` answers is the model's choice (DESIGN CHOICE, log
entry 22). -/
def hostPowerOff (d : Driver) : DriverOutcome Unit :=
  andThen (notifyDevice d.bench.block.params.opcodes.powerOff id { d with files := [], handles := [] }) fun _ d =>
    checked (issue .pwrOff d)

/-! ### Files and handles -/

/-- A new handle on file `i` at cursor 0 (47_host_driver.md R233). -/
def addHandle (i : Nat) (d : Driver) : DriverOutcome Nat :=
  if d.handles.length = d.cfg.maxHandles then .failed .tableFull d
  else .ok d.handles.length { d with handles := d.handles ++ [⟨some i, some 0, true⟩] }

/-- open(path) (47_host_driver.md R233). -/
def hostOpen (path : List Byte) (d : Driver) : DriverOutcome Nat :=
  whenPowered d fun d =>
    match d.files.findIdx? fun f => nameMatches d.cfg.nameMatch f.name path with
    | some i => addHandle i d
    | none =>
      if d.files.length = d.cfg.maxFiles then .failed .tableFull d
      else addHandle d.files.length { d with files := d.files ++ [⟨path, 0, []⟩] }

/-- close(h) (47_host_driver.md R234). -/
def hostClose (h : Nat) (d : Driver) : DriverOutcome Unit :=
  whenPowered d fun d =>
    if d.handles.length ≤ h then .failed .invalidHandle d
    else .ok () { d with handles := d.handles.set h ⟨none, none, false⟩ }

/-- HT[h].CURSOR <- c. -/
def setCursor (h c : Nat) (d : Driver) : Driver :=
  { d with handles := d.handles.modify h fun x => { x with cursor := some c } }

/-- seek(h, offset) (47_host_driver.md R240). -/
def hostSeek (h off : Nat) (d : Driver) : DriverOutcome Unit :=
  whenPowered d fun d => whenOpen d h fun _ f _ =>
    if f.size < off then .failed .seekOutOfRange d else .ok () (setCursor h off d)

/-! ### Frames -/

/-- FrameGet(fi) (47_host_driver.md R235). -/
def frameGet (fi : FrameIndex) (d : Driver) : DriverOutcome Unit :=
  andThen (issue (.clookup hostSid fi) d) fun _ d =>
    if hitFlag d.bench.block.rspStatus then .ok () d
    else andThen (checked (issue (.exec d.bench.block.params.opcodes.frameRead fi) d)) fun _ d =>
      issue (.cupsert hostSid fi) d

/-- `n` bytes of FBUF from address `a` up, by FBRD. -/
def readBytes : Nat → Nat → Driver → DriverOutcome (List Byte)
  | 0, _, d => .ok [] d
  | n + 1, a, d =>
    andThen (issue (.fbrd (BitVec.ofNat 12 a)) d) fun _ d =>
      let b := d.bench.block.rspData.setWidth 8
      andThen (readBytes n (a + 1) d) fun l d => .ok (b :: l) d

/-- The bytes `l` to FBUF from address `a` up, by FBWR. -/
def writeBytes : List Byte → Nat → Driver → DriverOutcome Unit
  | [], _, d => .ok () d
  | b :: l, a, d => andThen (issue (.fbwr (BitVec.ofNat 12 a) b) d) fun _ d => writeBytes l (a + 1) d

/-! ### read -/

/-- `dst[k] <- b`; a buffer of `k` bytes grows by one (log entry 23). -/
def putByte (dst : List Byte) (k : Nat) (b : Byte) : List Byte := dst.take k ++ b :: dst.drop (k + 1)

/-- `n` bytes of FBUF from address `a` up to `dst` from `k` up, each by one FBRD (47_host_driver.md R236). -/
def readInto : Nat → Nat → Nat → Driver → DriverOutcome Unit
  | 0, _, _, d => .ok () d
  | n + 1, a, k, d =>
    andThen (issue (.fbrd (BitVec.ofNat 12 a)) d) fun _ d =>
      readInto n (a + 1) (k + 1) { d with dst := putByte d.dst k (d.bench.block.rspData.setWidth 8) }

/-- The loop of `read` (47_host_driver.md R236) with `left` bytes to go after `done`; each turn copies at least one
byte, so `turns` = the count bounds it. When FrameGet fails, the bytes already copied stay in `dst` and the cursor
stays advanced past them. -/
def readLoop (h fileIdx : Nat) : Nat → Nat → Nat → Nat → Driver → DriverOutcome Unit
  | 0, _, _, _, d => .ok () d
  | turns + 1, left, done, cursor, d =>
    if left = 0 then .ok () d
    else
      let off := cursor % 4096
      let n := min left (4096 - off)
      match (d.files[fileIdx]?).bind fun f => f.frames[cursor / 4096]? with
      | none => .fault .frameBeyondFile
      | some fi =>
        andThen (frameGet fi d) fun _ d => andThen (readInto n off done d) fun _ d =>
          readLoop h fileIdx turns (left - n) (done + n) (cursor + n) (setCursor h (cursor + n) d)

/-- read(h, dst, count): the number of bytes read, and in the driver's `dst` the caller's buffer after it, also when
the procedure fails part-way (47_host_driver.md R236). -/
def hostRead (h : Nat) (dst : List Byte) (count : Nat) (d : Driver) : DriverOutcome Nat :=
  whenPowered { d with dst := dst } fun d => whenOpen d h fun i f cursor =>
    let n := min count (f.size - cursor)
    andThen (readLoop h i n n 0 cursor d) fun _ d => .ok n d

/-! ### write -/

/-- The spliced content X of one frame: `src` over the bytes from `off` up (47_host_driver.md R237). -/
def splice (old src : List Byte) (off : Nat) : List Byte :=
  old.take off ++ src ++ old.drop (off + src.length)

/-- One frame of `write` (47_host_driver.md R237): fetch, splice, write to the device, refresh the cache with X. -/
def writeFrame (fi : FrameIndex) (off : Nat) (src : List Byte) (d : Driver) : DriverOutcome Unit :=
  andThen (frameGet fi d) fun _ d => andThen (readBytes 4096 0 d) fun old d =>
    let x := splice old src off
    andThen (writeBytes src off d) fun _ d =>
      andThen (checked (issue (.exec d.bench.block.params.opcodes.frameWrite fi) d)) fun _ d =>
        andThen (writeBytes x 0 d) fun _ d => issue (.cupsert hostSid fi) d

/-- The loop of `write` (47_host_driver.md R237); `turns` = the count bounds it. A frame position the file does not
have cannot come up: ALLOC has covered cursor + count. -/
def writeLoop (fileIdx : Nat) : Nat → List Byte → Nat → Driver → DriverOutcome Unit
  | 0, _, _, d => .ok () d
  | turns + 1, src, pos, d =>
    if src = [] then .ok () d
    else
      let off := pos % 4096
      let n := min src.length (4096 - off)
      match (d.files[fileIdx]?).bind fun f => f.frames[pos / 4096]? with
      | none => .fault .frameBeyondFile
      | some fi => andThen (writeFrame fi off (src.take n) d) fun _ d =>
          writeLoop fileIdx turns (src.drop n) (pos + n) d

/-- The frames ALLOC assigned, appended to the file (47_host_driver.md R237). -/
def takeFrames (fileIdx : Nat) (d : Driver) : Driver :=
  let data := d.bench.block.rspData
  let base := (data.setWidth 32).toNat
  let k := (data >>> 32).toNat
  { d with files := d.files.modify fileIdx fun f =>
      { f with frames := f.frames ++ (List.range k).map fun j => BitVec.ofNat 16 (base + j) } }

/-- SIZE after a write (47_host_driver.md R238). -/
def sizeAfter (mode : SizeMode) (size cursor count : Nat) : Nat :=
  match mode with
  | .grow => size + count
  | .max => max size (cursor + count)

/-- write(h, src, count): the number of bytes written (47_host_driver.md R237). A size that does not fit ALLOC's
operands needs more frames than any device has, so it fails as ALLOC would (log entry 18). -/
def hostWrite (h : Nat) (src : List Byte) (d : Driver) : DriverOutcome Nat :=
  whenPowered d fun d => whenOpen d h fun i f cursor =>
    let count := src.length
    if 2 ^ 32 ≤ cursor + count ∨ 2 ^ 20 ≤ f.frames.length then .failed (.ofBlock Cause.outOfFrames.code) d
    else
      andThen (checked (issue (.alloc (BitVec.ofNat 20 f.frames.length) (BitVec.ofNat 32 (cursor + count))) d))
        fun _ d => andThen (writeLoop i count src cursor (takeFrames i d)) fun _ d =>
          let d := setCursor h (cursor + count) d
          .ok count { d with files := d.files.modify i fun f =>
            { f with size := sizeAfter d.cfg.sizeMode f.size cursor count } }

end Sys2Proof.Machine
end

