-- ==== Sys2Proof/Safety.lean ====
section
/-! DEFINITION. What counts as a safe run, the outcomes 60_exceptions.md R275 keeps distinct, and the invariants
of DDBLK in the terms the statements use. -/

namespace Sys2Proof.Machine

/-! ### Runs -/

/-- `n` steps of the block. -/
def runFor (n : Nat) (s : State) : Host.Outcome State Fault Refusal := Sys2Proof.core.run n s

/-- `t` comes after `s` in `n` steps. -/
def RunsTo (n : Nat) (s t : State) : Prop := runFor n s = .next t

/-! ### The outcomes of 60_exceptions.md R275 -/

/-- (1) The last command ended as a reported failure: an ordinary outcome (R275 (1)). -/
def State.reportsFailure (s : State) : Bool := failFlag s.rspStatus

/-- (2) The run is faulted: CFG_FAULT is set (R275 (2), 10_state.md R24; log entry 13). -/
def State.faulted (s : State) : Bool := s.cfgFault

/-- The bus never answers the outstanding exchange. -/
def State.busSilent (s : State) : Bool := (busNext s.bus s.req (payload s)).isNone

/-- (3) The engine waits in XCHG for an answer that never comes (R275 (3)). -/
def State.stuck (s : State) : Bool := decide (s.fsm = .xchg) && s.busSilent

/-- (4) A hang: the command in progress never ends though the bus answers (R275 (4), 40_protocol_engine.md R128). -/
def Hangs (s : State) : Prop :=
  ∀ n, ∃ t, RunsTo n s t ∧ t.fsm ≠ .idle ∧ t.stuck = false

/-- A safe run: no state it reaches is faulted. -/
def SafeRun (s : State) : Prop :=
  ∀ n t, RunsTo n s t → t.faulted = false

/-! ### Invariants -/

/-- CAPACITY holds a legal value (10_state.md R26). -/
def CapacityLegal (s : State) : Prop :=
  1 ≤ s.capacity.toNat ∧ s.capacity.toNat ≤ s.params.capMax.toNat

/-- len(CE) <= CAPACITY.CAP (10_state.md R40 (1)). -/
def CacheBounded (s : State) : Prop := s.ce.length ≤ s.capacity.toNat

/-- No two entries match one key (10_state.md R40 (2), (3)). -/
def CacheKeysDistinct (s : State) : Prop :=
  s.ce.Pairwise fun e e' => keyMatch s.params.keyMode e.sid e.fidx e' = false

/-- FFC <= DEVICE_FRAMES (10_state.md R29, 43_frame_allocator.md R192 (1)). -/
def FfcBounded (s : State) : Prop := s.ffc.toNat ≤ s.params.deviceFrames.toNat

/-- RSP_STATUS is a success, or a failure with HIT = 0 and one of the five causes; every reserved bit is 0
(10_state.md R38, 60_exceptions.md R270). -/
def ResponseLegal (s : State) : Prop :=
  (∃ hit, s.rspStatus = statusWord false hit .none) ∨
    ∃ cause, cause ≠ Cause.none ∧ s.rspStatus = statusWord true false cause

/-- Every frame buffer is in canonical form (log entry 2). -/
def BuffersWf (s : State) : Prop :=
  s.fbuf.wf = true ∧ s.save.wf = true ∧ ∀ e ∈ s.ce, Memory.wf e.data = true

/-- While off, the cache is empty and no command is in progress (44_lifecycle_access.md R201, R206). -/
def OffIsQuiet (s : State) : Prop :=
  s.powered = false → s.ce = [] ∧ s.fsm = .idle

/-- In XCHG the outstanding request is the one of 40_protocol_engine.md R113 and R122: latched opcode and frame
index, return code 0 (30_encoding.md R94). -/
def RequestBuilt (s : State) : Prop :=
  s.fsm = .xchg → s.req = requestWord s

/-- A bounded EXEC has attempts left in PREP and XCHG, and has made at most LIMIT + 1 in CHECK
(40_protocol_engine.md R119). -/
def AttemptsBounded (s : State) : Prop :=
  s.retryUnbounded = false →
    ((s.fsm = .prep ∨ s.fsm = .xchg) → s.att.toNat ≤ s.retryLimit.toNat) ∧
    (s.fsm = .check → s.att.toNat ≤ s.retryLimit.toNat + 1)

/-- In CHECK, LAST_ATTEMPTS is the number of exchanges of the EXEC in progress (40_protocol_engine.md R120). -/
def AttemptsReported (s : State) : Prop :=
  s.fsm = .check → s.lastAttempts = s.att

/-- The cache's invariants together (10_state.md R26, R40); that the cache is empty while CAPACITY can be written is
what keeps the bound. -/
def CacheInv (s : State) : Prop :=
  CapacityLegal s ∧ CacheBounded s ∧ CacheKeysDistinct s ∧ OffIsQuiet s

/-- Everything the block keeps. -/
def Inv (s : State) : Prop :=
  CacheInv s ∧ FfcBounded s ∧ ResponseLegal s ∧ BuffersWf s ∧ RequestBuilt s ∧ AttemptsBounded s ∧
    AttemptsReported s

end Sys2Proof.Machine
end

