-- ==== Sys2Proof/WellFormed.lean ====
section
/-! DEFINITION. Which instructions a host or the engine can form. An operand's width is in its type
(30_encoding.md R95: an operand that does not fit its field forms no word); what is left to check is what the
engine never sends (30_encoding.md R94). -/

namespace Sys2Proof

/-- A request other than a frame write: return code 0 and checksum 0 (30_encoding.md R94). -/
def plainRequest (csum : BitVec 32) (rc : BitVec 8) : Bool := csum == 0 && rc == 0

/-- The well-formed instructions (30_encoding.md R94). -/
def Instr.wellFormed : Instr → Bool
  | .pwrOn | .pwrOff | .exec _ _ | .clookup _ _ | .cupsert _ _ | .alloc _ _ => true
  | .fbrd _ | .fbwr _ _ | .csrr _ | .csrw _ _ => true
  | .opDeviceInit _ csum rc => plainRequest csum rc
  | .opZeroAll _ csum rc => plainRequest csum rc
  | .opPowerOff _ csum rc => plainRequest csum rc
  | .opFrameRead _ csum rc => plainRequest csum rc
  | .opFrameWrite _ _ rc => rc == 0

end Sys2Proof
end

