-- ==== Sys2Proof/Certificates/Slice0/Obligations.lean ====
section
/-! DEFINITION. The statements for the provers. RSP_STATUS is written out as a number: 0x0 a success, 0x2 a hit, and
0x11, 0x21, 0x31, 0x41, 0x51 the failures NOT_POWERED_ON, OUT_OF_FRAMES, RETRY_EXHAUSTED, BAD_COMMAND, CFG_LATE
(10_state.md R38, 60_exceptions.md R270). Where a result is given as an equation with a record update, every field
the update does not name, and with it every byte of FBUF, is unchanged. -/

open Sys2Proof Sys2Proof.Machine

/-! ### Encoding -/

/-- Decoding the word of a host command gives the command back, whatever its operands. -/
def Obligations.DecodeEncodeEveryCommand : Prop :=
  ∀ (p : Params) (i : Instr), i.isCommand = true → decode (encode p i) = .instr i

/-- Decoding the register word of a bus request gives the request back, under both layouts and every OPCODE_MAP of
distinct values. -/
def Obligations.DecodeEncodeEveryBusRequest : Prop :=
  ∀ (p : Params) (i : Instr), p.opcodes.Distinct → i.isCommand = false → decodeBus p (encode p i) = some i

/-- A word that decodes is the word of what it decodes to: no bit of a legal word is dropped. -/
def Obligations.EncodeDecodedWordIsTheWord : Prop :=
  ∀ (p : Params) (w : Word) (i : Instr),
    (decode w = .instr i → encode p i = w) ∧ (decodeBus p w = some i → encode p i = w)

/-- 40_protocol_engine.md R111: both layouts, in the concatenated and in the shifted form, and the example. -/
def Obligations.PackPlacesTheFields : Prop :=
  ∀ r : BusReg,
    pack .lsbFirst r = r.returnCode ++ r.checksum ++ r.frame ++ r.opcode ∧
    pack .lsbFirst r = (r.opcode.setWidth 64 ||| r.frame.setWidth 64 <<< 8 ||| r.checksum.setWidth 64 <<< 24
      ||| r.returnCode.setWidth 64 <<< 56) ∧
    pack .msbFirst r = r.opcode ++ r.frame ++ r.checksum ++ r.returnCode ∧
    pack .msbFirst r = (r.returnCode.setWidth 64 ||| r.checksum.setWidth 64 <<< 8 ||| r.frame.setWidth 64 <<< 40
      ||| r.opcode.setWidth 64 <<< 56) ∧
    pack .lsbFirst ⟨0x04, 0x0003, 0x00001000, 0x00⟩ = 0x0000001000000304

/-- 40_protocol_engine.md R112: where `unpack` reads each field. That it is the inverse of `pack` is what R112 marks
as its own derivation. -/
def Obligations.UnpackIsTheInverseOfPack : Prop :=
  ∀ w : Word,
    unpack .lsbFirst w =
      ⟨w.extractLsb' 0 8, w.extractLsb' 8 16, w.extractLsb' 24 32, w.extractLsb' 56 8⟩ ∧
    unpack .msbFirst w =
      ⟨w.extractLsb' 56 8, w.extractLsb' 40 16, w.extractLsb' 8 32, w.extractLsb' 0 8⟩ ∧
    ∀ (l : RegLayout) (r : BusReg), pack l (unpack l w) = w ∧ unpack l (pack l r) = r

/-- 30_encoding.md R88: a word is a command exactly if it fits that command's row, and its operands are the fields
that formats HX to HC place in the bits outside the mask. -/
def Obligations.DecodeFollowsTheCommandTable : Prop :=
  ∀ w : Word,
    let field (lo n : Nat) : BitVec n := w.extractLsb' lo n
    let selects (row : Prop) (named : Instr → Prop) (i : Instr) : Prop :=
      ((∃ j, decode w = .instr j ∧ named j) ↔ row) ∧ (row → decode w = .instr i)
    selects (w &&& 0xFFFFFFFFFFFFFFFF = 0x0000000000000001) (· = .pwrOn) .pwrOn ∧
    selects (w &&& 0xFFFFFFFFFFFFFFFF = 0x0000000000000002) (· = .pwrOff) .pwrOff ∧
    selects (w &&& 0xFFFFFFFF000000FF = 0x0000000000000003) (fun i => ∃ o f, i = .exec o f)
      (.exec (field 8 8) (field 16 16)) ∧
    selects (w &&& 0xFFFFFFFF000000FF = 0x0000000000000004) (fun i => ∃ d f, i = .clookup d f)
      (.clookup (field 8 8) (field 16 16)) ∧
    selects (w &&& 0xFFFFFFFF000000FF = 0x0000000000000005) (fun i => ∃ d f, i = .cupsert d f)
      (.cupsert (field 8 8) (field 16 16)) ∧
    selects (w &&& 0xF0000000000000FF = 0x0000000000000006) (fun i => ∃ h n, i = .alloc h n)
      (.alloc (field 8 20) (field 28 32)) ∧
    selects (w &&& 0xFFFFFFFFFFF000FF = 0x0000000000000007) (fun i => ∃ a, i = .fbrd a) (.fbrd (field 8 12)) ∧
    selects (w &&& 0xFFFFFFFFF00000FF = 0x0000000000000008) (fun i => ∃ a d, i = .fbwr a d)
      (.fbwr (field 8 12) (field 20 8)) ∧
    selects (w &&& 0xFFFFFFFFFFFF00FF = 0x0000000000000009) (fun i => ∃ n, i = .csrr n) (.csrr (field 8 8)) ∧
    selects (w &&& 0x00000000000000FF = 0x000000000000000A) (fun i => ∃ n v, i = .csrw n v)
      (.csrw (field 8 8) (field 16 48))

/-- 30_encoding.md R89: which words are illegal, that the all-zero word is, what an illegal word does at the port, and
that the legality of a CSR number or value is the command's own check, with the same failure. -/
def Obligations.IllegalWordsFailBadCommand : Prop :=
  (∀ w : Word, (∃ why, decode w = .illegal why) ↔
    (cmdField w = 0 ∨ 0xB ≤ cmdField w ∨ ∀ i : Instr, i.isCommand = true → w &&& i.rowMask ≠ i.rowMatch)) ∧
  (∃ why, decode 0 = .illegal why) ∧
  (∀ (s : State) (w : Word) (rest : List Word) (why : DecodeReject),
    s.resetPin = false → s.fsm = .idle → s.port = w :: rest → decode w = .illegal why →
    step s = .next { s with port := rest, rspStatus := 0x41, rspData := 0 }) ∧
  (∀ (s : State) (n : BitVec 8) (v : BitVec 48),
    (0x0A < n.toNat → exec (.csrr n) s = .next { s with fsm := .idle, rspStatus := 0x41, rspData := 0 }) ∧
    (1 < n.toNat ∨ (n = 0 ∧ 2 ^ 16 ≤ v.toNat) ∨ (n = 1 ∧ 2 ^ 33 ≤ v.toNat) ∨
      (n = 0 ∧ s.powered = false ∧ (v = 0 ∨ s.params.capMax.toNat < v.toNat)) →
      exec (.csrw n v) s = .next { s with fsm := .idle, rspStatus := 0x41, rspData := 0 }))

/-- The worked encodings (30_encoding.md R97, which the spec marks as its own derivation from R82, R84, R85, R86 and
R91) and the requests of 41_bus_opcodes.md as the bus sees them. -/
def Obligations.WorkedEncodingsDecode : Prop :=
  decode 0x0000000000640503 = .instr (.exec OpcodeMap.default.frameWrite 100) ∧
  decode 0x0000013880000006 = .instr (.alloc 0 5000) ∧
  decode 0x000100000000010A = .instr (.csrw 0x01 0x100000000) ∧
  decode 0x000000000ABFFF08 = .instr (.fbwr 4095 0xAB) ∧
  (pseudoOf Params.default "UNBOUND".toList []).map (List.map (encode Params.default)) = some [0x000100000000010A] ∧
  decodeBus Params.default 0x0000000000000001 = some (.opDeviceInit 0 0 0) ∧
  decodeBus Params.default 0x0000000000000002 = some (.opZeroAll 0 0 0) ∧
  decodeBus Params.default 0x0000000000000003 = some (.opPowerOff 0 0 0) ∧
  decodeBus Params.default 0x0000000000000304 = some (.opFrameRead 3 0 0) ∧
  decodeBus Params.default 0x0000001000006405 = some (.opFrameWrite 0x64 0x1000 0) ∧
  ∀ s : State, s.params.layout = .lsbFirst → s.params.opcodes = OpcodeMap.default →
    csum s.params.csum s.fbufFrame = 0x00001000 →
    (prepare (latch 0x05 100 s)).req = 0x0000001000006405

/-! ### The step -/

/-- A step runs the instruction it fetches: in IDLE the command the word at the head of the port decodes to, the word
accepted; in XCHG the request the register word REQ decodes to. The step does nothing around it. That a step is one
transition of R121 and a bus request an instruction of its own is the model's choice (log entries 9, 10). -/
def Obligations.StepRunsTheFetchedInstruction : Prop :=
  ∀ (s : State) (i : Instr), s.resetPin = false →
    (∀ w rest, s.fsm = .idle → s.port = w :: rest → decode w = .instr i → step s = exec i { s with port := rest }) ∧
    (s.fsm = .xchg → decodeBus s.params s.req = some i → step s = exec i s)

/-- Every state has a next state: the model neither refuses nor faults a command, a request or a wait. That a wait is
a step to the same state and that CFG_FAULT stops nothing is the model's choice (log entries 6, 7, 13). -/
def Obligations.EveryStateHasANextState : Prop :=
  ∀ s : State, ∃ t, step s = .next t

/-- 40_protocol_engine.md R121, row by row. -/
def Obligations.EngineFollowsTheTransitionTable : Prop :=
  ∀ s : State, s.resetPin = false →
    (∀ w rest opc fidx, s.fsm = .idle → s.port = w :: rest → decode w = .instr (.exec opc fidx) →
      s.powered = true →
      step s = .next { s with port := rest, lOpc := opc, lFidx := fidx, att := 0, fsm := .prep,
                              save := if s.params.retryPayload = .original then s.fbuf else s.save }) ∧
    (∀ w rest, s.fsm = .idle → s.port = w :: rest → cmdField w = 0x3 → (∃ why, decode w = .illegal why) →
      step s = .next { s with port := rest, rspStatus := 0x41, rspData := 0 }) ∧
    (∀ w rest opc fidx, s.fsm = .idle → s.port = w :: rest → decode w = .instr (.exec opc fidx) →
      s.powered = false →
      step s = .next { s with port := rest, rspStatus := 0x11, rspData := 0 }) ∧
    (∀ w rest i, s.fsm = .idle → s.port = w :: rest → decode w = .instr i →
      (∀ opc fidx, i ≠ .exec opc fidx) →
      ∃ t, step s = .next t ∧ exec i { s with port := rest } = .next t ∧ t.fsm = .idle) ∧
    (s.fsm = .prep →
      step s = .next { s with fsm := .xchg, req := pack s.params.layout ⟨s.lOpc, s.lFidx,
        if s.lOpc = s.params.opcodes.frameWrite then csum s.params.csum (payload s) else 0, 0⟩ }) ∧
    (∀ a b', s.fsm = .xchg → busNext s.bus s.req (payload s) = some (a, b') →
      step s = .next { s with bus := b', fbuf := Memory.ofFrame a.frame, lastRsp := a.word, att := satInc s.att,
                              lastAttempts := satInc s.att, fsm := .check }) ∧
    (s.fsm = .xchg → busNext s.bus s.req (payload s) = none → step s = .next s) ∧
    (s.fsm = .check → success s.params s.lastRsp s.fbufFrame = true →
      step s = .next { s with fsm := .idle, rspStatus := 0x0, rspData := s.lastRsp }) ∧
    (s.fsm = .check → success s.params s.lastRsp s.fbufFrame = false →
      (s.retryUnbounded = true ∨ s.att.toNat ≤ s.retryLimit.toNat) →
      step s = .next { s with fsm := .prep }) ∧
    (s.fsm = .check → success s.params s.lastRsp s.fbufFrame = false →
      s.retryUnbounded = false → s.retryLimit.toNat < s.att.toNat →
      step s = .next { s with fsm := .idle, rspStatus := 0x31, rspData := s.lastRsp })

/-! ### Power, frame buffer, control registers -/

/-- PWR_ON (44_lifecycle_access.md R200, 70_reset_and_hazards.md R303). -/
def Obligations.PwrOnEmptiesCacheAndCounter : Prop :=
  ∀ s : State,
    (s.powered = false → exec .pwrOn s =
      .next { s with powered := true, ce := [], ffc := 0, fsm := .idle, rspStatus := 0, rspData := 0 }) ∧
    (s.powered = true → exec .pwrOn s = .next { s with fsm := .idle, rspStatus := 0, rspData := 0 })

/-- PWR_OFF (44_lifecycle_access.md R201). -/
def Obligations.PwrOffReleasesEveryEntry : Prop :=
  ∀ s : State,
    (s.powered = true → exec .pwrOff s =
      .next { s with powered := false, ce := [], fsm := .idle, rspStatus := 0, rspData := 0 }) ∧
    (s.powered = false → exec .pwrOff s = .next { s with fsm := .idle, rspStatus := 0x11, rspData := 0 })

/-- 44_lifecycle_access.md R206: the five gated commands fail while off, before any other effect; the others are
accepted in both power states; decoding is checked first. -/
def Obligations.PowerGatesFiveCommands : Prop :=
  (∀ (s : State) (i : Instr), s.powered = false →
    ((∃ o f, i = .exec o f) ∨ (∃ d f, i = .clookup d f) ∨ (∃ d f, i = .cupsert d f) ∨ (∃ h n, i = .alloc h n) ∨
      i = .pwrOff) →
    exec i s = .next { s with fsm := .idle, rspStatus := 0x11, rspData := 0 }) ∧
  (∀ (s : State) (w : Word) (rest : List Word) (why : DecodeReject), s.powered = false →
    s.resetPin = false → s.fsm = .idle → s.port = w :: rest → decode w = .illegal why →
    step s = .next { s with port := rest, rspStatus := 0x41, rspData := 0 }) ∧
  (∀ (s : State) (i : Instr),
    (i = .pwrOn ∨ (∃ a, i = .fbrd a) ∨ (∃ a d, i = .fbwr a d) ∨ (∃ n, i = .csrr n) ∨ (∃ n v, i = .csrw n v)) →
    ∃ t, exec i s = .next t ∧ causeField t.rspStatus ≠ 0x1)

/-- FBRD and FBWR at every address, in both power states (44_lifecycle_access.md R202, R203; 20_memory.md R61): the
byte written at `a` reads back, every other byte reads as before. -/
def Obligations.FrameBufferBytesReadAndWrite : Prop :=
  ∀ (s : State) (a : BitVec 12) (d : Byte),
    exec (.fbrd a) s = .next { s with fsm := .idle, rspStatus := 0, rspData := (s.readFbuf a).setWidth 64 } ∧
    exec (.fbwr a d) s =
      .next { s with fbuf := s.fbuf.write a.toNat d, fsm := .idle, rspStatus := 0, rspData := 0 } ∧
    ∀ t, exec (.fbwr a d) s = .next t → t.readFbuf a = d ∧ ∀ b, b ≠ a → t.readFbuf b = s.readFbuf b

/-- CSRR of every CSR (44_lifecycle_access.md R204; 10_state.md R25 to R36): the value, its unused bits 0. CCOUNT is
stated for a length its 16 bits hold (log entry 17). -/
def Obligations.CsrrReadsEveryRegister : Prop :=
  ∀ s : State,
    let reads (n : BitVec 8) (v : Word) : Prop :=
      exec (.csrr n) s = .next { s with fsm := .idle, rspStatus := 0, rspData := v }
    reads 0x00 (0#48 ++ s.capacity) ∧
    reads 0x01 (0#31 ++ BitVec.ofBool s.retryUnbounded ++ s.retryLimit) ∧
    reads 0x02 (0#62 ++ BitVec.ofBool s.cfgFault ++ BitVec.ofBool s.powered) ∧
    reads 0x03 (0#47 ++ s.ffc) ∧
    (s.ce.length < 65536 → reads 0x04 (BitVec.ofNat 64 s.ce.length)) ∧
    reads 0x05 s.lastRsp ∧
    reads 0x06 (0#32 ++ s.lastAttempts) ∧
    reads 0x07 (0#47 ++ s.params.deviceFrames) ∧
    reads 0x08 (0#48 ++ s.params.capMax) ∧
    reads 0x09 (0#61 ++ BitVec.ofBool (s.params.layout == .msbFirst) ++
      BitVec.ofBool (s.params.retryPayload == .original) ++ BitVec.ofBool (s.params.keyMode == .full)) ∧
    reads 0x0A (0#24 ++ s.params.opcodes.frameWrite ++ s.params.opcodes.frameRead ++ s.params.opcodes.powerOff ++
      s.params.opcodes.zeroAll ++ s.params.opcodes.deviceInit)

/-- CSRW of CAPACITY and RETRY (44_lifecycle_access.md R205; 10_state.md R26, R27): the values taken, and the late
capacity write, which is CFG_LATE and sets CFG_FAULT whatever its value field. -/
def Obligations.CsrwWritesCapacityAndRetry : Prop :=
  ∀ (s : State) (v : BitVec 48),
    (s.powered = false → 1 ≤ v.toNat → v.toNat ≤ s.params.capMax.toNat →
      exec (.csrw 0x00 v) s =
        .next { s with capacity := v.setWidth 16, fsm := .idle, rspStatus := 0, rspData := 0 }) ∧
    (s.powered = true → v.toNat < 2 ^ 16 →
      exec (.csrw 0x00 v) s = .next { s with cfgFault := true, fsm := .idle, rspStatus := 0x51, rspData := 0 }) ∧
    (v.toNat < 2 ^ 33 →
      exec (.csrw 0x01 v) s =
        .next { s with retryLimit := v.setWidth 32, retryUnbounded := decide (2 ^ 32 ≤ v.toNat), fsm := .idle,
                       rspStatus := 0, rspData := 0 })

/-- FBRD and CSRR have no side effect and are idempotent; so is CLOOKUP (20_memory.md R65). -/
def Obligations.ReadsAreIdempotent : Prop :=
  ∀ (s t : State) (i : Instr), ((∃ a, i = .fbrd a) ∨ (∃ n, i = .csrr n) ∨ (∃ d f, i = .clookup d f)) →
    exec i s = .next t →
    exec i t = .next t ∧
    ((∀ d f, i ≠ .clookup d f) → t = { s with fsm := .idle, rspStatus := t.rspStatus, rspData := t.rspData })

/-! ### The cache -/

/-- CLOOKUP (42_frame_cache.md R162): the hit, the miss, the power check. R162 says that some entry matches, at most
one; that of several the FIRST counts is the model's choice (log entry 17), in states no run reaches. -/
def Obligations.ClookupCopiesWithoutPromotion : Prop :=
  ∀ (s : State) (sid : StoreId) (fidx : FrameIndex),
    (s.powered = true → ∀ i e, s.ce[i]? = some e → keyMatch s.params.keyMode sid fidx e = true →
      (∀ j e', j < i → s.ce[j]? = some e' → keyMatch s.params.keyMode sid fidx e' = false) →
      exec (.clookup sid fidx) s =
        .next { s with fbuf := e.data, fsm := .idle, rspStatus := 0x2, rspData := BitVec.ofNat 64 i }) ∧
    (s.powered = true → (∀ e ∈ s.ce, keyMatch s.params.keyMode sid fidx e = false) →
      exec (.clookup sid fidx) s = .next { s with fsm := .idle, rspStatus := 0, rspData := 0 }) ∧
    (s.powered = false →
      exec (.clookup sid fidx) s = .next { s with fsm := .idle, rspStatus := 0x11, rspData := 0 })

/-- CUPSERT (42_frame_cache.md R163): the four steps, the key field of RSP_DATA as {FIDX, SID, step}. R163 says that some
entry matches; that of several the FIRST counts is the model's choice (log entry 17), in states no run reaches. -/
def Obligations.CupsertTakesOneOfFourSteps : Prop :=
  ∀ (s : State) (sid : StoreId) (fidx : FrameIndex), s.powered = true →
    let new : CacheEntry := { sid := sid, fidx := fidx, data := s.fbuf }
    let ends (ce : List CacheEntry) (data : Word) : Prop :=
      exec (.cupsert sid fidx) s = .next { s with ce := ce, fsm := .idle, rspStatus := 0, rspData := data }
    (s.ce = [] → ends [new] 0x1) ∧
    (∀ i e, s.ce[i]? = some e → keyMatch s.params.keyMode sid fidx e = true →
      (∀ j e', j < i → s.ce[j]? = some e' → keyMatch s.params.keyMode sid fidx e' = false) →
      ends ({ sid := e.sid, fidx := e.fidx, data := s.fbuf } :: (s.ce.take i ++ s.ce.drop (i + 1)))
        (0#32 ++ e.fidx ++ e.sid ++ 0x02#8)) ∧
    (s.ce ≠ [] → (∀ e ∈ s.ce, keyMatch s.params.keyMode sid fidx e = false) →
      s.ce.length < s.capacity.toNat → ends (new :: s.ce) 0x3) ∧
    (∀ front tail, s.ce = front ++ [tail] → (∀ e ∈ s.ce, keyMatch s.params.keyMode sid fidx e = false) →
      s.ce.length = s.capacity.toNat → ends (new :: front) (0#32 ++ tail.fidx ++ tail.sid ++ 0x04#8))

/-- 42_frame_cache.md R161: what matches a key. -/
def Obligations.KeyMatchFollowsKeyMode : Prop :=
  ∀ (e : CacheEntry) (sid : StoreId) (fidx : FrameIndex),
    (keyMatch .frameOnly sid fidx e = true ↔ e.fidx = fidx) ∧
    (keyMatch .full sid fidx e = true ↔ e.fidx = fidx ∧ e.sid = sid)

/-- 42_frame_cache.md R164 (1), which the spec marks as its own derivation, at once after the upsert: a lookup whose
key matches hits at position 0 and gives back what was stored, whatever FBUF has become meanwhile. -/
def Obligations.LookupAfterUpsertReturnsTheContent : Prop :=
  ∀ (s : State) (sid sid' : StoreId) (fidx : FrameIndex),
    s.powered = true → (s.params.keyMode = .frameOnly ∨ sid' = sid) →
    ∃ t, exec (.cupsert sid fidx) s = .next t ∧
      ∀ m : Memory, exec (.clookup sid' fidx) { t with fbuf := m } =
        .next { t with fbuf := s.fbuf, fsm := .idle, rspStatus := 0x2, rspData := 0 }

/-- 42_frame_cache.md R164 (3), (4), which the spec marks as its own derivation, and 10_state.md R41: a lookup leaves
CE as it is, so it changes nothing about what a later upsert does. -/
def Obligations.LookupsNeverChangeEviction : Prop :=
  ∀ (s t : State) (sid sid' : StoreId) (fidx fidx' : FrameIndex) (m : Memory),
    exec (.clookup sid fidx) s = .next t →
    t.ce = s.ce ∧ upsert sid' fidx' { t with fbuf := m } = upsert sid' fidx' { s with fbuf := m }

/-- 42_frame_cache.md R165, which the spec marks as its own derivation, under either KEY_MODE. -/
def Obligations.CacheScenarioOfTheSource : Prop :=
  ∀ (s : State) (A B C : Memory), s.powered = true → s.capacity = 2 → s.ce = [] →
    ∃ t1 t2 t3 t4 t5,
      exec (.cupsert 1 100) { s with fbuf := A } = .next t1 ∧ t1.rspData = 0x1 ∧
      exec (.cupsert 1 101) { t1 with fbuf := B } = .next t2 ∧ t2.rspData = 0x3 ∧
      exec (.cupsert 1 102) { t2 with fbuf := C } = .next t3 ∧ t3.rspData = 0x0000000000640104 ∧
      exec (.clookup 1 100) t3 = .next t4 ∧ t4.rspStatus = 0x0 ∧
      exec (.clookup 1 102) t4 = .next t5 ∧ t5.rspStatus = 0x2 ∧ t5.fbuf = C

/-- 10_state.md R40, which the spec marks as its own derivation, with R26: the cache's invariants hold after every
step they held before. -/
def Obligations.EveryStepKeepsTheCacheInvariants : Prop :=
  ∀ s t : State, s.params.Legal → CacheInv s → step s = .next t → CacheInv t

/-! ### The allocator -/

/-- ALLOC (43_frame_allocator.md R190): all of the frames or none, in exact arithmetic. -/
def Obligations.AllocAssignsAllOrNone : Prop :=
  ∀ (s : State) (have_ : BitVec 20) (need : BitVec 32), s.powered = true →
    let k := (need.toNat + 4095) / 4096 - have_.toNat
    ((k = 0 ∨ s.ffc.toNat + k ≤ s.params.deviceFrames.toNat) →
      exec (.alloc have_ need) s =
        .next { s with ffc := BitVec.ofNat 17 (s.ffc.toNat + k), fsm := .idle, rspStatus := 0,
                       rspData := BitVec.ofNat 64 (k * 2 ^ 32 + s.ffc.toNat) }) ∧
    (0 < k → s.params.deviceFrames.toNat < s.ffc.toNat + k →
      exec (.alloc have_ need) s = .next { s with fsm := .idle, rspStatus := 0x21, rspData := 0 })

/-- 43_frame_allocator.md R191, which the spec marks as its own derivation: `k` is where the source's loop stops, the
loop's test fails at some turn exactly when the `k` frames do not fit, and then ALLOC assigns none. -/
def Obligations.AllocCountIsTheLoopCount : Prop :=
  ∀ (have_ : BitVec 20) (need : BitVec 32),
    let k := framesNeeded have_ need
    k = (need.toNat + 4095) / 4096 - have_.toNat ∧
    need.toNat ≤ (have_.toNat + k) * 4096 ∧
    (∀ j, j < k → (have_.toNat + j) * 4096 < need.toNat) ∧
    ∀ s : State,
      ((∃ j, j < k ∧ s.params.deviceFrames.toNat < s.ffc.toNat + j + 1) ↔
        (0 < k ∧ s.params.deviceFrames.toNat < s.ffc.toNat + k)) ∧
      ((∃ j, j < k ∧ s.params.deviceFrames.toNat < s.ffc.toNat + j + 1) → s.powered = true →
        exec (.alloc have_ need) s = .next { s with fsm := .idle, rspStatus := 0x21, rspData := 0 })

/-- 10_state.md R44, which the spec marks as its own derivation: while the block stays on, FFC never decreases, and
what ALLOC returns lies between its old and its new value. -/
def Obligations.CounterNeverFallsWhilePowered : Prop :=
  (∀ s t : State, s.resetPin = false → s.powered = true → t.powered = true → step s = .next t →
    s.ffc.toNat ≤ t.ffc.toNat) ∧
  (∀ (s t : State) (have_ : BitVec 20) (need : BitVec 32),
    exec (.alloc have_ need) s = .next t → t.rspStatus = 0 →
    ∀ j, j < (t.rspData >>> 32).toNat →
      s.ffc.toNat ≤ (t.rspData.setWidth 32).toNat + j ∧ (t.rspData.setWidth 32).toNat + j < t.ffc.toNat)

/-! ### The engine -/

/-- CSUM_SUM, the default CSUM, is the sum of the 4096 bytes modulo 2^32 (40_protocol_engine.md R114), and R114's
examples. -/
def Obligations.DefaultChecksumIsTheSumOfTheBytes : Prop :=
  (∀ f : Frame, csum .sum f = BitVec.ofNat 32 (f.toList.map fun b => b.toNat).sum) ∧
  csum .sum (frameOf fun _ => 0x00) = 0x00000000 ∧
  csum .sum (frameOf fun _ => 0x01) = 0x00001000 ∧
  csum .sum (frameOf fun _ => 0xFF) = 0x000FF000 ∧
  csum .sum (frameOf fun k => if k = 0 then 0x0A else 0x00) = 0x0000000A

/-- EXEC (40_protocol_engine.md R116): the power check, then what it latches; LAST_ATTEMPTS and LAST_RSP keep their
values. -/
def Obligations.ExecLatchesAndStarts : Prop :=
  ∀ (s : State) (opc : BitVec 8) (fidx : FrameIndex),
    (s.powered = true → exec (.exec opc fidx) s =
      .next { s with lOpc := opc, lFidx := fidx, att := 0, fsm := .prep,
                     save := if s.params.retryPayload = .original then s.fbuf else s.save }) ∧
    (s.powered = false →
      exec (.exec opc fidx) s = .next { s with fsm := .idle, rspStatus := 0x11, rspData := 0 })

/-- The five bus requests: when the bus answers they complete; while it does not, they wait and nothing changes
(41_bus_opcodes.md R140 to R144; 40_protocol_engine.md R118, R120, R121). That a request is an instruction of its own
is the model's choice (log entry 10). -/
def Obligations.BusRequestsTakeTheAnswer : Prop :=
  ∀ (s : State) (f : FrameIndex) (c : BitVec 32) (rc : BitVec 8) (i : Instr),
    i ∈ [.opDeviceInit f c rc, .opZeroAll f c rc, .opPowerOff f c rc, .opFrameRead f c rc, .opFrameWrite f c rc] →
    (∀ (a : BusAnswer) (b' : BusSource), busNext s.bus (encode s.params i) (payload s) = some (a, b') →
      ∃ t, exec i s = .next t ∧ t.fbufFrame = a.frame ∧ t.fsm = .check ∧ t.lastRsp = a.word ∧
        t.att.toNat = min (s.att.toNat + 1) 0xFFFFFFFF ∧ t.lastAttempts = t.att ∧
        t = { s with bus := b', fbuf := t.fbuf, lastRsp := a.word, att := t.att, lastAttempts := t.att,
                     fsm := .check }) ∧
    (busNext s.bus (encode s.params i) (payload s) = none → exec i s = .next s)

/-- 40_protocol_engine.md R115: an attempt succeeds by checksum when the returned opcode is frame-read, by return code
otherwise; the returned frame index is not examined; and CHECK ends the EXEC without a failure exactly then. -/
def Obligations.SuccessIsJudgedByTheReturnedOpcode : Prop :=
  (∀ (p : Params) (w : Word) (b : Frame),
    ((unpack p.layout w).opcode = p.opcodes.frameRead →
      (success p w b = true ↔ csum p.csum b = (unpack p.layout w).checksum)) ∧
    ((unpack p.layout w).opcode ≠ p.opcodes.frameRead →
      (success p w b = true ↔ (unpack p.layout w).returnCode = 0)) ∧
    ∀ f : FrameIndex, success p (pack p.layout { unpack p.layout w with frame := f }) b = success p w b) ∧
  ∀ s : State, s.resetPin = false → s.fsm = .check →
    ∃ t, step s = .next t ∧
      ((t.fsm = .idle ∧ failFlag t.rspStatus = false) ↔ success s.params s.lastRsp s.fbufFrame = true)

/-- 40_protocol_engine.md R126, which the spec marks as its own derivation: the corner cases, as what CHECK does next.
-/
def Obligations.SuccessCornerCases : Prop :=
  ∀ (p : Params) (r : BusReg) (b : Frame),
    (r.opcode = p.opcodes.frameRead → ∀ rc : BitVec 8,
      success p (pack p.layout { r with returnCode := rc }) b = success p (pack p.layout r) b) ∧
    (r.opcode ≠ p.opcodes.frameRead → ∀ (c : BitVec 32) (b2 : Frame),
      success p (pack p.layout { r with checksum := c }) b2 = success p (pack p.layout r) b) ∧
    (r.opcode ≠ p.opcodes.frameRead → r.returnCode ≠ 0 → success p (pack p.layout r) b = false) ∧
    ∀ (s : State) (opc : BitVec 8) (fidx : FrameIndex), s.resetPin = false → s.fsm = .check →
      ∃ t, step s = .next t ∧ step { s with lOpc := opc, lFidx := fidx } = .next { t with lOpc := opc, lFidx := fidx }

/-- 40_protocol_engine.md R118, 70_reset_and_hazards.md R310: after every attempt FBUF is the frame the bus returned,
every byte of it, and judging the attempt leaves it so. -/
def Obligations.FbufHoldsTheReturnedFrame : Prop :=
  ∀ (s t : State) (a : BusAnswer) (b' : BusSource), s.resetPin = false → s.fsm = .xchg →
    busNext s.bus s.req (payload s) = some (a, b') → step s = .next t →
    t.fbufFrame = a.frame ∧ (∀ k : BitVec 12, some (t.readFbuf k) = a.frame[k.toNat]?) ∧
    ∀ u, step t = .next u → u.fbuf = t.fbuf

/-- 40_protocol_engine.md R122: the latched opcode and frame index are sent by every attempt and never replaced while
the EXEC runs. -/
def Obligations.LatchedOperandsAreSentOnEveryAttempt : Prop :=
  ∀ s t : State, s.resetPin = false → step s = .next t →
    (s.fsm ≠ .idle → t.lOpc = s.lOpc ∧ t.lFidx = s.lFidx) ∧
    (s.fsm = .prep → (unpack t.params.layout t.req).opcode = s.lOpc ∧
      (unpack t.params.layout t.req).frame = s.lFidx ∧ (unpack t.params.layout t.req).returnCode = 0)

/-- 41_bus_opcodes.md R146, which the spec marks as its own derivation: (1) and (2) of the request, (3) of FBUF, (4)
of what success depends on. -/
def Obligations.PromisesForEveryOpcode : Prop :=
  (∀ s t : State, s.resetPin = false → s.fsm = .prep → step s = .next t →
    let r := unpack s.params.layout t.req
    r.opcode = s.lOpc ∧ r.frame = s.lFidx ∧ r.returnCode = 0 ∧
      (r.checksum ≠ 0 → s.lOpc = s.params.opcodes.frameWrite)) ∧
  (∀ (s t : State) (a : BusAnswer) (b' : BusSource), s.resetPin = false → s.fsm = .xchg →
    busNext s.bus s.req (payload s) = some (a, b') → step s = .next t → t.fbufFrame = a.frame) ∧
  (∀ s s' t t' : State, s.resetPin = false → s'.resetPin = false → s.fsm = .check → s'.fsm = .check →
    s.params = s'.params → s.lastRsp = s'.lastRsp → s.fbufFrame = s'.fbufFrame →
    step s = .next t → step s' = .next t' →
    ((t.fsm = .idle ∧ failFlag t.rspStatus = false) ↔ (t'.fsm = .idle ∧ failFlag t'.rspStatus = false)))

/-- 40_protocol_engine.md R117, and 70_reset_and_hazards.md R313, which the spec marks as its own derivation: what a
retry sends, three steps after a failed answer that leaves a retry: under CURRENT the frame the bus returned, under
ORIGINAL the saved one. -/
def Obligations.RetrySendsThePayloadOfItsMode : Prop :=
  ∀ (s : State) (a : BusAnswer) (b' : BusSource), s.resetPin = false → s.fsm = .xchg →
    busNext s.bus s.req (payload s) = some (a, b') → success s.params a.word a.frame = false →
    (s.retryUnbounded = true ∨ s.att.toNat < s.retryLimit.toNat) →
    ∃ t, RunsTo 3 s t ∧ t.fsm = .xchg ∧
      payload t = (if s.params.retryPayload = .current then a.frame else payload s) ∧
      t.req = pack s.params.layout ⟨s.lOpc, s.lFidx,
        if s.lOpc = s.params.opcodes.frameWrite then csum s.params.csum (payload t) else 0, 0⟩

/-- 40_protocol_engine.md R116, R124, and 20_memory.md R72, which the spec marks as its own derivation: a step of an
EXEC in progress takes no word from the port and leaves CE, FFC, POWERED, CFG_FAULT, CAPACITY and RETRY as they are;
while it goes on the response registers hold (10_state.md R38). -/
def Obligations.EngineStepsLeaveTheRestAlone : Prop :=
  ∀ s t : State, s.resetPin = false → s.fsm ≠ .idle → step s = .next t →
    t.port = s.port ∧ t.ce = s.ce ∧ t.ffc = s.ffc ∧ t.powered = s.powered ∧ t.cfgFault = s.cfgFault ∧
    t.capacity = s.capacity ∧ t.retryLimit = s.retryLimit ∧ t.retryUnbounded = s.retryUnbounded ∧
    t.save = s.save ∧ (t.fsm ≠ .idle → t.rspStatus = s.rspStatus ∧ t.rspData = s.rspData)

/-- 20_memory.md R72, which the spec marks as its own derivation: the engine does not see the cache. Two states that
differ in CE only take steps that differ in CE only. -/
def Obligations.EngineDoesNotSeeTheCache : Prop :=
  ∀ (s : State) (ce : List CacheEntry), s.resetPin = false → s.fsm ≠ .idle →
    ∃ t, step s = .next t ∧ step { s with ce := ce } = .next { t with ce := ce }

/-- 40_protocol_engine.md R119: the count of exchanges stays within the bound, from every state where it is. -/
def Obligations.EveryStepKeepsTheAttemptBound : Prop :=
  ∀ s t : State, AttemptsBounded s → step s = .next t → AttemptsBounded t

/-- 40_protocol_engine.md R129, which the spec marks as its own derivation, from the acceptance of the command: `bad`
are the answers to attempts 1 to k, `good` the answer to attempt k + 1. LAST_ATTEMPTS is k + 1 as far as its 32 bits
hold it (10_state.md R32). -/
def Obligations.ChecksumRetryConverges : Prop :=
  ∀ (s : State) (w : Word) (rest : List Word) (fidx : FrameIndex) (bad : List BusAnswer) (good : BusAnswer)
    (more : List BusAnswer),
    s.resetPin = false → s.fsm = .idle → s.powered = true → s.port = w :: rest →
    decode w = .instr (.exec s.params.opcodes.frameRead fidx) →
    s.bus.listed = bad ++ good :: more →
    (∀ a ∈ bad, (unpack s.params.layout a.word).opcode = s.params.opcodes.frameRead ∧
      csum s.params.csum a.frame ≠ (unpack s.params.layout a.word).checksum) →
    (unpack s.params.layout good.word).opcode = s.params.opcodes.frameRead →
    csum s.params.csum good.frame = (unpack s.params.layout good.word).checksum →
    (s.retryUnbounded = true ∨ bad.length ≤ s.retryLimit.toNat) →
    ∃ t, RunsTo (3 * (bad.length + 1) + 1) s t ∧ t.fsm = .idle ∧ t.rspStatus = 0 ∧ t.rspData = good.word ∧
      t.fbufFrame = good.frame ∧ t.lastAttempts.toNat = min (bad.length + 1) 0xFFFFFFFF ∧
      t.bus.listed = more ∧ t.port = rest

/-- 40_protocol_engine.md R128, which the spec marks as its own derivation: an unbounded EXEC whose every answer fails
never ends. A bus that repeats an answer is one the model's log entry 5 admits. -/
def Obligations.UnboundedExecHangsOnAFailingBus : Prop :=
  ∀ (s : State) (a : BusAnswer), s.resetPin = false → (s.fsm = .prep ∨ s.fsm = .xchg) →
    s.retryUnbounded = true → s.bus.later = .repeating a → success s.params a.word a.frame = false →
    (∀ x ∈ s.bus.listed, success s.params x.word x.frame = false) →
    Hangs s

/-- 40_protocol_engine.md R119, and R128, which the spec marks as its own derivation: a bounded EXEC ends, after at
most LIMIT + 1 exchanges, if the bus answers them. LIMIT = 0xFFFFFFFF is R119's corner case: no failed attempt
exhausts that bound. -/
def Obligations.BoundedExecEnds : Prop :=
  (∀ s : State, s.resetPin = false → s.fsm = .prep → s.att = 0 → s.retryUnbounded = false →
    s.retryLimit.toNat < 0xFFFFFFFF → s.retryLimit.toNat + 1 ≤ s.bus.listed.length →
    ∃ n t, n ≤ 3 * (s.retryLimit.toNat + 1) ∧ RunsTo n s t ∧ t.fsm = .idle ∧
      s.bus.listed.length ≤ t.bus.listed.length + (s.retryLimit.toNat + 1)) ∧
  (∀ s : State, s.resetPin = false → s.fsm = .check → s.retryLimit = 0xFFFFFFFF →
    success s.params s.lastRsp s.fbufFrame = false → step s = .next { s with fsm := .prep })

/-- 60_exceptions.md R275 (3), which the spec marks as its own derivation: a stuck engine stays as it is; only block
reset ends it (R317). -/
def Obligations.StuckEngineStaysStuck : Prop :=
  ∀ s : State, s.stuck = true →
    (s.resetPin = false → ∀ n, RunsTo n s s) ∧
    ∃ t, step { s with resetPin := true } = .next t ∧ t.fsm = .idle

/-! ### Who writes what -/

/-- What the step that accepts a command changes: for each piece of state, the commands that may (the 'State written'
lines of R162, R163, R190, R200 to R205). For EXEC it is the accepting transition only, the first row of
40_protocol_engine.md R121; FBUF, LAST_RSP, LAST_ATTEMPTS and REQ, which R116 lists for the whole EXEC, are written by
its later transitions. That these are steps of their own is the model's choice (log entry 9). FBUF is said byte by
byte: FBWR's own byte, and a CLOOKUP. -/
def Obligations.CommandsWriteOnlyTheirState : Prop :=
  ∀ (i : Instr) (s t : State), i.isCommand = true → exec i s = .next t →
    t.lastRsp = s.lastRsp ∧ t.lastAttempts = s.lastAttempts ∧ t.req = s.req ∧ t.params = s.params ∧
    t.port = s.port ∧ t.bus = s.bus ∧ t.resets = s.resets ∧ t.resetPin = s.resetPin ∧
    ((∀ o f, i ≠ .exec o f) →
      t.lOpc = s.lOpc ∧ t.lFidx = s.lFidx ∧ t.att = s.att ∧ t.save = s.save ∧ t.fsm = .idle) ∧
    (i ≠ .pwrOn → i ≠ .pwrOff → t.powered = s.powered) ∧
    ((∀ n v, i ≠ .csrw n v) → t.cfgFault = s.cfgFault ∧ t.capacity = s.capacity ∧
      t.retryLimit = s.retryLimit ∧ t.retryUnbounded = s.retryUnbounded) ∧
    (i ≠ .pwrOn → (∀ h n, i ≠ .alloc h n) → t.ffc = s.ffc) ∧
    (i ≠ .pwrOn → i ≠ .pwrOff → (∀ d f, i ≠ .cupsert d f) → t.ce = s.ce) ∧
    ((∀ d f, i ≠ .clookup d f) → ∀ b : BitVec 12, (∀ v, i ≠ .fbwr b v) → t.readFbuf b = s.readFbuf b)

/-- 41_bus_opcodes.md R147, which the spec marks as its own derivation: a bus request changes POWERED, CE and FFC no
more than any register but the engine's own. -/
def Obligations.BusRequestsWriteOnlyTheEngine : Prop :=
  ∀ (i : Instr) (s t : State), i.isCommand = false → exec i s = .next t →
    t = { s with bus := t.bus, fbuf := t.fbuf, lastRsp := t.lastRsp, att := t.att, lastAttempts := t.lastAttempts,
                 fsm := t.fsm } ∧
    (t.fsm = s.fsm ∨ t.fsm = .check)

/-- 60_exceptions.md R270, R273: a command that fails changes the response only, and CFG_FAULT when it is CFG_LATE. -/
def Obligations.FailuresArePrecise : Prop :=
  ∀ (i : Instr) (s t : State), i.isCommand = true → exec i s = .next t → t.fsm = .idle →
    failFlag t.rspStatus = true →
    t = { s with fsm := .idle, rspStatus := t.rspStatus, rspData := 0, cfgFault := t.cfgFault } ∧
    (t.cfgFault ≠ s.cfgFault → t.rspStatus = 0x51)

/-- 20_memory.md R67, R68: a step accepts at most the word at the head of the port, in IDLE only; only XCHG reaches the
bus, and there a step takes over the one answer the bus gives to REQ, with CHECK next, or waits. -/
def Obligations.OneCommandAndOneExchangeAtATime : Prop :=
  ∀ s t : State, s.resetPin = false → step s = .next t →
    (t.port = s.port ∨ (s.fsm = .idle ∧ ∃ w, s.port = w :: t.port)) ∧
    (s.fsm ≠ .xchg → t.bus = s.bus) ∧
    (s.fsm = .xchg →
      (busNext s.bus s.req (payload s) = none ∧ t = s) ∨
      ∃ a b', busNext s.bus s.req (payload s) = some (a, b') ∧ t.bus = b' ∧ t.lastRsp = a.word ∧ t.fsm = .check)

/-- 10_state.md R23, 60_exceptions.md R283: only PWR_ON turns the block on, only PWR_OFF off, but for block reset. -/
def Obligations.OnlyPowerCommandsChangePower : Prop :=
  ∀ s t : State, s.resetPin = false → step s = .next t → t.powered ≠ s.powered →
    s.fsm = .idle ∧ ∃ w rest, s.port = w :: rest ∧
      ((decode w = .instr .pwrOn ∧ s.powered = false) ∨ (decode w = .instr .pwrOff ∧ s.powered = true))

/-- 10_state.md R24: no step but block reset clears CFG_FAULT, and only a CSRW of CAPACITY while powered sets it. -/
def Obligations.CfgFaultIsSticky : Prop :=
  ∀ s t : State, s.resetPin = false → step s = .next t →
    (s.cfgFault = true → t.cfgFault = true) ∧
    (s.cfgFault = false → t.cfgFault = true →
      s.powered = true ∧ s.fsm = .idle ∧ ∃ w rest v, s.port = w :: rest ∧ decode w = .instr (.csrw 0x00 v))

/-- The parameters are fixed for the block (00_scope.md R8), by block reset too; CAPACITY is fixed while the block is
on (10_state.md R26). -/
def Obligations.ConfigurationIsFixed : Prop :=
  ∀ s t : State, step s = .next t →
    t.params = s.params ∧ (s.resetPin = false → s.powered = true → t.capacity = s.capacity)

/-! ### Reset and the invariant -/

/-- 70_reset_and_hazards.md R300, from any state. FBUF and SAVE are left unsaid: they are unspecified. -/
def Obligations.ResetSetsEveryRegister : Prop :=
  ∀ s : State, s.resetPin = true →
    ∃ t, step s = .next t ∧ t.powered = false ∧ t.cfgFault = false ∧ t.capacity = t.params.capMax ∧
      t.retryUnbounded = true ∧ t.retryLimit = 0 ∧ t.ffc = 0 ∧ t.ce = [] ∧ t.lastRsp = 0 ∧ t.lastAttempts = 0 ∧
      t.rspStatus = 0 ∧ t.rspData = 0 ∧ t.fsm = .idle ∧ t.lOpc = 0 ∧ t.lFidx = 0 ∧ t.att = 0 ∧ t.req = 0 ∧
      csrValue t .ccount = 0 ∧ csrValue t .devframes = s.params.deviceFrames.setWidth 64 ∧
      csrValue t .capmax = s.params.capMax.setWidth 64 ∧ csrValue t .modes = modesWord s.params ∧
      csrValue t .opcodes = opcodesWord s.params.opcodes

/-- 70_reset_and_hazards.md R301: the command in progress ends without a response and the outstanding answer is
discarded. That the answer discarded is the next one listed is the model's reading (log entry 8). -/
def Obligations.ResetDiscardsTheOutstandingAnswer : Prop :=
  ∀ (s : State) (a : BusAnswer) (l : List BusAnswer), s.resetPin = true → s.fsm = .xchg → s.bus.listed = a :: l →
    ∃ t, step s = .next t ∧ t.bus.listed = l ∧ t.lastRsp = 0 ∧ t.rspStatus = 0 ∧ t.rspData = 0 ∧ t.fsm = .idle

/-- Everything DDBLK keeps: the cache's and the counter's bounds, the response's shape, the buffers' canonical form,
the built request, the attempt bound and count. The buffers' form is the model's choice (log entry 2). -/
def Obligations.EveryStepKeepsTheInvariant : Prop :=
  ∀ s t : State, s.params.Legal → Inv s → step s = .next t → Inv t

/-- The invariant holds after reset, for every legal choice of the parameters, and for the machine's own, which are
the model's choice (log entry 1). -/
def Obligations.InvariantHoldsAtReset : Prop :=
  (∀ p : Params, p.Legal → Inv (State.resetOf p)) ∧ State.reset.params.Legal ∧ Inv State.reset

/-! ### Bytes, the reference bus, the host driver, the assembler -/

/-- 20_memory.md R63: byte k of FBUF is byte k of the frame on the bus, both ways, and a word carried as bytes goes
least significant byte first. -/
def Obligations.ByteOrderIsKept : Prop :=
  (∀ (resets : Nat) (m : Memory) (k : Nat), m.wf = true → k < 4096 →
    (m.toFrame resets)[k]? = some (m.read resets k)) ∧
  (∀ (resets : Nat) (f : Frame) (k : Nat), k < 4096 → f[k]? = some ((Memory.ofFrame f).read resets k)) ∧
  ∀ w : Word, wordOfBytes (wordToBytes w) = w ∧
    ∀ k, k < 8 → (wordToBytes w)[k]? = some (w.extractLsb' (8 * k) 8)

/-- 41_bus_opcodes.md R148 (2), R143: the reference bus answers a frame-read in range with the stored frame, and the
engine takes that answer. -/
def Obligations.ReferenceBusReadSucceeds : Prop :=
  ∀ (p : Params) (dev : Device) (f : FrameIndex) (c : BitVec 32) (rc : BitVec 8) (P : Frame),
    f.toNat < p.deviceFrames.toNat →
    let a := (refBusAnswer p dev (encode p (.opFrameRead f c rc)) P).1
    a.frame = deviceRead dev f.toNat ∧ success p a.word a.frame = true

/-- 41_bus_opcodes.md R149: under CSUM_SUM a corrupted frame-read answer fails its checksum. -/
def Obligations.CorruptedReadAnswerFails : Prop :=
  ∀ (p : Params) (dev : Device) (k : Nat) (f : FrameIndex) (c : BitVec 32) (rc : BitVec 8) (P : Frame),
    p.csum = .sum → f.toNat < p.deviceFrames.toNat →
    let r := refBusNext p { kind := .corrupt (k + 1), dev := dev } (encode p (.opFrameRead f c rc)) P
    success p r.1.word r.1.frame = false ∧ r.2 = { kind := .corrupt k, dev := dev }

/-- 47_host_driver.md R240: a seek moves the cursor exactly when the offset is at most the file's size. How long the
host waits for a response is the model's choice (log entry 18). -/
def Obligations.SeekStaysWithinTheFile : Prop :=
  ∀ (d : Driver) (h off i c : Nat) (f : DriverFile),
    d.bench.block.powered = true → d.bench.block.fsm = .idle → d.bench.block.resetPin = false →
    1 ≤ d.patience → d.handles[h]? = some ⟨some i, some c, true⟩ → d.files[i]? = some f →
    (off ≤ f.size → ∃ d', hostSeek h off d = .ok () d' ∧ d'.handles[h]? = some ⟨some i, some off, true⟩) ∧
    (f.size < off → ∃ d', hostSeek h off d = .failed .seekOutOfRange d' ∧ d'.handles = d.handles)

/-- 30_encoding.md R96: the expansion of each pseudo-instruction. -/
def Obligations.PseudoInstructionsExpand : Prop :=
  ∀ p : Params,
    pseudoOf p "DEVINIT".toList [] = some [.exec p.opcodes.deviceInit 0] ∧
    pseudoOf p "ZEROALL".toList [] = some [.exec p.opcodes.zeroAll 0] ∧
    pseudoOf p "DEVOFF".toList [] = some [.exec p.opcodes.powerOff 0] ∧
    (∀ f : FrameIndex, pseudoOf p "FREAD".toList [f.toNat] = some [.exec p.opcodes.frameRead f]) ∧
    (∀ f : FrameIndex, pseudoOf p "FWRITE".toList [f.toNat] = some [.exec p.opcodes.frameWrite f]) ∧
    (∀ v : BitVec 48, pseudoOf p "SETCAP".toList [v.toNat] = some [.csrw 0x00 v]) ∧
    (∀ v : BitVec 32, pseudoOf p "SETRETRY".toList [v.toNat] = some [.csrw 0x01 (0#16 ++ v)]) ∧
    pseudoOf p "UNBOUND".toList [] = some [.csrw 0x01 0x100000000] ∧
    (∀ (a b : Nat) (v : Byte), a ≤ b → b < 4096 → pseudoOf p "FBFILL".toList [a, b, v.toNat] =
      some ((List.range (b - a + 1)).map fun j => .fbwr (BitVec.ofNat 12 (a + j)) v))
end

