-- ==== Sys2Proof/Laws/State.lean ====
section
/-! SUPPORT. One lemma per field per named update of State, each true by `rfl`, so that no proof unfolds an update. -/

namespace Sys2Proof.Machine

/-! `respond` writes the response registers and goes back to IDLE; every other field is kept. -/

@[simp] theorem respond_powered (hit : Bool) (data : Word) (s : State) : (respond hit data s).powered = s.powered := rfl
@[simp] theorem respond_cfgFault (hit : Bool) (data : Word) (s : State) : (respond hit data s).cfgFault = s.cfgFault := rfl
@[simp] theorem respond_capacity (hit : Bool) (data : Word) (s : State) : (respond hit data s).capacity = s.capacity := rfl
@[simp] theorem respond_retryLimit (hit : Bool) (data : Word) (s : State) : (respond hit data s).retryLimit = s.retryLimit := rfl
@[simp] theorem respond_retryUnbounded (hit : Bool) (data : Word) (s : State) : (respond hit data s).retryUnbounded = s.retryUnbounded := rfl
@[simp] theorem respond_ffc (hit : Bool) (data : Word) (s : State) : (respond hit data s).ffc = s.ffc := rfl
@[simp] theorem respond_lastRsp (hit : Bool) (data : Word) (s : State) : (respond hit data s).lastRsp = s.lastRsp := rfl
@[simp] theorem respond_lastAttempts (hit : Bool) (data : Word) (s : State) : (respond hit data s).lastAttempts = s.lastAttempts := rfl
@[simp] theorem respond_ce (hit : Bool) (data : Word) (s : State) : (respond hit data s).ce = s.ce := rfl
@[simp] theorem respond_fbuf (hit : Bool) (data : Word) (s : State) : (respond hit data s).fbuf = s.fbuf := rfl
@[simp] theorem respond_fsm (hit : Bool) (data : Word) (s : State) : (respond hit data s).fsm = .idle := rfl
@[simp] theorem respond_lOpc (hit : Bool) (data : Word) (s : State) : (respond hit data s).lOpc = s.lOpc := rfl
@[simp] theorem respond_lFidx (hit : Bool) (data : Word) (s : State) : (respond hit data s).lFidx = s.lFidx := rfl
@[simp] theorem respond_att (hit : Bool) (data : Word) (s : State) : (respond hit data s).att = s.att := rfl
@[simp] theorem respond_req (hit : Bool) (data : Word) (s : State) : (respond hit data s).req = s.req := rfl
@[simp] theorem respond_save (hit : Bool) (data : Word) (s : State) : (respond hit data s).save = s.save := rfl
@[simp] theorem respond_rspStatus (hit : Bool) (data : Word) (s : State) : (respond hit data s).rspStatus = statusWord false hit .none := rfl
@[simp] theorem respond_rspData (hit : Bool) (data : Word) (s : State) : (respond hit data s).rspData = data := rfl
@[simp] theorem respond_params (hit : Bool) (data : Word) (s : State) : (respond hit data s).params = s.params := rfl
@[simp] theorem respond_port (hit : Bool) (data : Word) (s : State) : (respond hit data s).port = s.port := rfl
@[simp] theorem respond_bus (hit : Bool) (data : Word) (s : State) : (respond hit data s).bus = s.bus := rfl
@[simp] theorem respond_resetPin (hit : Bool) (data : Word) (s : State) : (respond hit data s).resetPin = s.resetPin := rfl
@[simp] theorem respond_resets (hit : Bool) (data : Word) (s : State) : (respond hit data s).resets = s.resets := rfl

/-! `raise` writes the response registers and goes back to IDLE; every other field is kept. -/

@[simp] theorem raise_powered (cause : Cause) (data : Word) (s : State) : (raise cause data s).powered = s.powered := rfl
@[simp] theorem raise_cfgFault (cause : Cause) (data : Word) (s : State) : (raise cause data s).cfgFault = s.cfgFault := rfl
@[simp] theorem raise_capacity (cause : Cause) (data : Word) (s : State) : (raise cause data s).capacity = s.capacity := rfl
@[simp] theorem raise_retryLimit (cause : Cause) (data : Word) (s : State) : (raise cause data s).retryLimit = s.retryLimit := rfl
@[simp] theorem raise_retryUnbounded (cause : Cause) (data : Word) (s : State) : (raise cause data s).retryUnbounded = s.retryUnbounded := rfl
@[simp] theorem raise_ffc (cause : Cause) (data : Word) (s : State) : (raise cause data s).ffc = s.ffc := rfl
@[simp] theorem raise_lastRsp (cause : Cause) (data : Word) (s : State) : (raise cause data s).lastRsp = s.lastRsp := rfl
@[simp] theorem raise_lastAttempts (cause : Cause) (data : Word) (s : State) : (raise cause data s).lastAttempts = s.lastAttempts := rfl
@[simp] theorem raise_ce (cause : Cause) (data : Word) (s : State) : (raise cause data s).ce = s.ce := rfl
@[simp] theorem raise_fbuf (cause : Cause) (data : Word) (s : State) : (raise cause data s).fbuf = s.fbuf := rfl
@[simp] theorem raise_fsm (cause : Cause) (data : Word) (s : State) : (raise cause data s).fsm = .idle := rfl
@[simp] theorem raise_lOpc (cause : Cause) (data : Word) (s : State) : (raise cause data s).lOpc = s.lOpc := rfl
@[simp] theorem raise_lFidx (cause : Cause) (data : Word) (s : State) : (raise cause data s).lFidx = s.lFidx := rfl
@[simp] theorem raise_att (cause : Cause) (data : Word) (s : State) : (raise cause data s).att = s.att := rfl
@[simp] theorem raise_req (cause : Cause) (data : Word) (s : State) : (raise cause data s).req = s.req := rfl
@[simp] theorem raise_save (cause : Cause) (data : Word) (s : State) : (raise cause data s).save = s.save := rfl
@[simp] theorem raise_rspStatus (cause : Cause) (data : Word) (s : State) : (raise cause data s).rspStatus = statusWord true false cause := rfl
@[simp] theorem raise_rspData (cause : Cause) (data : Word) (s : State) : (raise cause data s).rspData = data := rfl
@[simp] theorem raise_params (cause : Cause) (data : Word) (s : State) : (raise cause data s).params = s.params := rfl
@[simp] theorem raise_port (cause : Cause) (data : Word) (s : State) : (raise cause data s).port = s.port := rfl
@[simp] theorem raise_bus (cause : Cause) (data : Word) (s : State) : (raise cause data s).bus = s.bus := rfl
@[simp] theorem raise_resetPin (cause : Cause) (data : Word) (s : State) : (raise cause data s).resetPin = s.resetPin := rfl
@[simp] theorem raise_resets (cause : Cause) (data : Word) (s : State) : (raise cause data s).resets = s.resets := rfl

/-! `writeFbuf` writes FBUF only. -/

@[simp] theorem writeFbuf_powered (a : BitVec 12) (v : Byte) (s : State) : (s.writeFbuf a v).powered = s.powered := rfl
@[simp] theorem writeFbuf_cfgFault (a : BitVec 12) (v : Byte) (s : State) : (s.writeFbuf a v).cfgFault = s.cfgFault := rfl
@[simp] theorem writeFbuf_capacity (a : BitVec 12) (v : Byte) (s : State) : (s.writeFbuf a v).capacity = s.capacity := rfl
@[simp] theorem writeFbuf_retryLimit (a : BitVec 12) (v : Byte) (s : State) : (s.writeFbuf a v).retryLimit = s.retryLimit := rfl
@[simp] theorem writeFbuf_retryUnbounded (a : BitVec 12) (v : Byte) (s : State) : (s.writeFbuf a v).retryUnbounded = s.retryUnbounded := rfl
@[simp] theorem writeFbuf_ffc (a : BitVec 12) (v : Byte) (s : State) : (s.writeFbuf a v).ffc = s.ffc := rfl
@[simp] theorem writeFbuf_lastRsp (a : BitVec 12) (v : Byte) (s : State) : (s.writeFbuf a v).lastRsp = s.lastRsp := rfl
@[simp] theorem writeFbuf_lastAttempts (a : BitVec 12) (v : Byte) (s : State) : (s.writeFbuf a v).lastAttempts = s.lastAttempts := rfl
@[simp] theorem writeFbuf_ce (a : BitVec 12) (v : Byte) (s : State) : (s.writeFbuf a v).ce = s.ce := rfl
@[simp] theorem writeFbuf_fbuf (a : BitVec 12) (v : Byte) (s : State) : (s.writeFbuf a v).fbuf = s.fbuf.write a.toNat v := rfl
@[simp] theorem writeFbuf_fsm (a : BitVec 12) (v : Byte) (s : State) : (s.writeFbuf a v).fsm = s.fsm := rfl
@[simp] theorem writeFbuf_lOpc (a : BitVec 12) (v : Byte) (s : State) : (s.writeFbuf a v).lOpc = s.lOpc := rfl
@[simp] theorem writeFbuf_lFidx (a : BitVec 12) (v : Byte) (s : State) : (s.writeFbuf a v).lFidx = s.lFidx := rfl
@[simp] theorem writeFbuf_att (a : BitVec 12) (v : Byte) (s : State) : (s.writeFbuf a v).att = s.att := rfl
@[simp] theorem writeFbuf_req (a : BitVec 12) (v : Byte) (s : State) : (s.writeFbuf a v).req = s.req := rfl
@[simp] theorem writeFbuf_save (a : BitVec 12) (v : Byte) (s : State) : (s.writeFbuf a v).save = s.save := rfl
@[simp] theorem writeFbuf_rspStatus (a : BitVec 12) (v : Byte) (s : State) : (s.writeFbuf a v).rspStatus = s.rspStatus := rfl
@[simp] theorem writeFbuf_rspData (a : BitVec 12) (v : Byte) (s : State) : (s.writeFbuf a v).rspData = s.rspData := rfl
@[simp] theorem writeFbuf_params (a : BitVec 12) (v : Byte) (s : State) : (s.writeFbuf a v).params = s.params := rfl
@[simp] theorem writeFbuf_port (a : BitVec 12) (v : Byte) (s : State) : (s.writeFbuf a v).port = s.port := rfl
@[simp] theorem writeFbuf_bus (a : BitVec 12) (v : Byte) (s : State) : (s.writeFbuf a v).bus = s.bus := rfl
@[simp] theorem writeFbuf_resetPin (a : BitVec 12) (v : Byte) (s : State) : (s.writeFbuf a v).resetPin = s.resetPin := rfl
@[simp] theorem writeFbuf_resets (a : BitVec 12) (v : Byte) (s : State) : (s.writeFbuf a v).resets = s.resets := rfl

/-! `prepare` writes REQ and goes to XCHG. -/

@[simp] theorem prepare_powered (s : State) : (prepare s).powered = s.powered := rfl
@[simp] theorem prepare_cfgFault (s : State) : (prepare s).cfgFault = s.cfgFault := rfl
@[simp] theorem prepare_capacity (s : State) : (prepare s).capacity = s.capacity := rfl
@[simp] theorem prepare_retryLimit (s : State) : (prepare s).retryLimit = s.retryLimit := rfl
@[simp] theorem prepare_retryUnbounded (s : State) : (prepare s).retryUnbounded = s.retryUnbounded := rfl
@[simp] theorem prepare_ffc (s : State) : (prepare s).ffc = s.ffc := rfl
@[simp] theorem prepare_lastRsp (s : State) : (prepare s).lastRsp = s.lastRsp := rfl
@[simp] theorem prepare_lastAttempts (s : State) : (prepare s).lastAttempts = s.lastAttempts := rfl
@[simp] theorem prepare_ce (s : State) : (prepare s).ce = s.ce := rfl
@[simp] theorem prepare_fbuf (s : State) : (prepare s).fbuf = s.fbuf := rfl
@[simp] theorem prepare_fsm (s : State) : (prepare s).fsm = .xchg := rfl
@[simp] theorem prepare_lOpc (s : State) : (prepare s).lOpc = s.lOpc := rfl
@[simp] theorem prepare_lFidx (s : State) : (prepare s).lFidx = s.lFidx := rfl
@[simp] theorem prepare_att (s : State) : (prepare s).att = s.att := rfl
@[simp] theorem prepare_req (s : State) : (prepare s).req = requestWord s := rfl
@[simp] theorem prepare_save (s : State) : (prepare s).save = s.save := rfl
@[simp] theorem prepare_rspStatus (s : State) : (prepare s).rspStatus = s.rspStatus := rfl
@[simp] theorem prepare_rspData (s : State) : (prepare s).rspData = s.rspData := rfl
@[simp] theorem prepare_params (s : State) : (prepare s).params = s.params := rfl
@[simp] theorem prepare_port (s : State) : (prepare s).port = s.port := rfl
@[simp] theorem prepare_bus (s : State) : (prepare s).bus = s.bus := rfl
@[simp] theorem prepare_resetPin (s : State) : (prepare s).resetPin = s.resetPin := rfl
@[simp] theorem prepare_resets (s : State) : (prepare s).resets = s.resets := rfl

/-! `latch` is the start of EXEC. -/

@[simp] theorem latch_powered (opc : BitVec 8) (fidx : FrameIndex) (s : State) : (latch opc fidx s).powered = s.powered := rfl
@[simp] theorem latch_cfgFault (opc : BitVec 8) (fidx : FrameIndex) (s : State) : (latch opc fidx s).cfgFault = s.cfgFault := rfl
@[simp] theorem latch_capacity (opc : BitVec 8) (fidx : FrameIndex) (s : State) : (latch opc fidx s).capacity = s.capacity := rfl
@[simp] theorem latch_retryLimit (opc : BitVec 8) (fidx : FrameIndex) (s : State) : (latch opc fidx s).retryLimit = s.retryLimit := rfl
@[simp] theorem latch_retryUnbounded (opc : BitVec 8) (fidx : FrameIndex) (s : State) : (latch opc fidx s).retryUnbounded = s.retryUnbounded := rfl
@[simp] theorem latch_ffc (opc : BitVec 8) (fidx : FrameIndex) (s : State) : (latch opc fidx s).ffc = s.ffc := rfl
@[simp] theorem latch_lastRsp (opc : BitVec 8) (fidx : FrameIndex) (s : State) : (latch opc fidx s).lastRsp = s.lastRsp := rfl
@[simp] theorem latch_lastAttempts (opc : BitVec 8) (fidx : FrameIndex) (s : State) : (latch opc fidx s).lastAttempts = s.lastAttempts := rfl
@[simp] theorem latch_ce (opc : BitVec 8) (fidx : FrameIndex) (s : State) : (latch opc fidx s).ce = s.ce := rfl
@[simp] theorem latch_fbuf (opc : BitVec 8) (fidx : FrameIndex) (s : State) : (latch opc fidx s).fbuf = s.fbuf := rfl
@[simp] theorem latch_fsm (opc : BitVec 8) (fidx : FrameIndex) (s : State) : (latch opc fidx s).fsm = .prep := rfl
@[simp] theorem latch_lOpc (opc : BitVec 8) (fidx : FrameIndex) (s : State) : (latch opc fidx s).lOpc = opc := rfl
@[simp] theorem latch_lFidx (opc : BitVec 8) (fidx : FrameIndex) (s : State) : (latch opc fidx s).lFidx = fidx := rfl
@[simp] theorem latch_att (opc : BitVec 8) (fidx : FrameIndex) (s : State) : (latch opc fidx s).att = 0 := rfl
@[simp] theorem latch_req (opc : BitVec 8) (fidx : FrameIndex) (s : State) : (latch opc fidx s).req = s.req := rfl
@[simp] theorem latch_save (opc : BitVec 8) (fidx : FrameIndex) (s : State) : (latch opc fidx s).save = if s.params.retryPayload = .original then s.fbuf else s.save := rfl
@[simp] theorem latch_rspStatus (opc : BitVec 8) (fidx : FrameIndex) (s : State) : (latch opc fidx s).rspStatus = s.rspStatus := rfl
@[simp] theorem latch_rspData (opc : BitVec 8) (fidx : FrameIndex) (s : State) : (latch opc fidx s).rspData = s.rspData := rfl
@[simp] theorem latch_params (opc : BitVec 8) (fidx : FrameIndex) (s : State) : (latch opc fidx s).params = s.params := rfl
@[simp] theorem latch_port (opc : BitVec 8) (fidx : FrameIndex) (s : State) : (latch opc fidx s).port = s.port := rfl
@[simp] theorem latch_bus (opc : BitVec 8) (fidx : FrameIndex) (s : State) : (latch opc fidx s).bus = s.bus := rfl
@[simp] theorem latch_resetPin (opc : BitVec 8) (fidx : FrameIndex) (s : State) : (latch opc fidx s).resetPin = s.resetPin := rfl
@[simp] theorem latch_resets (opc : BitVec 8) (fidx : FrameIndex) (s : State) : (latch opc fidx s).resets = s.resets := rfl

/-! The reset values (70_reset_and_hazards.md R300). -/

@[simp] theorem resetOf_powered (p : Params) : (State.resetOf p).powered = false := rfl
@[simp] theorem resetOf_cfgFault (p : Params) : (State.resetOf p).cfgFault = false := rfl
@[simp] theorem resetOf_capacity (p : Params) : (State.resetOf p).capacity = p.capMax := rfl
@[simp] theorem resetOf_retryLimit (p : Params) : (State.resetOf p).retryLimit = 0 := rfl
@[simp] theorem resetOf_retryUnbounded (p : Params) : (State.resetOf p).retryUnbounded = true := rfl
@[simp] theorem resetOf_ffc (p : Params) : (State.resetOf p).ffc = 0 := rfl
@[simp] theorem resetOf_lastRsp (p : Params) : (State.resetOf p).lastRsp = 0 := rfl
@[simp] theorem resetOf_lastAttempts (p : Params) : (State.resetOf p).lastAttempts = 0 := rfl
@[simp] theorem resetOf_ce (p : Params) : (State.resetOf p).ce = [] := rfl
@[simp] theorem resetOf_fbuf (p : Params) : (State.resetOf p).fbuf = [] := rfl
@[simp] theorem resetOf_fsm (p : Params) : (State.resetOf p).fsm = .idle := rfl
@[simp] theorem resetOf_lOpc (p : Params) : (State.resetOf p).lOpc = 0 := rfl
@[simp] theorem resetOf_lFidx (p : Params) : (State.resetOf p).lFidx = 0 := rfl
@[simp] theorem resetOf_att (p : Params) : (State.resetOf p).att = 0 := rfl
@[simp] theorem resetOf_req (p : Params) : (State.resetOf p).req = 0 := rfl
@[simp] theorem resetOf_save (p : Params) : (State.resetOf p).save = [] := rfl
@[simp] theorem resetOf_rspStatus (p : Params) : (State.resetOf p).rspStatus = 0 := rfl
@[simp] theorem resetOf_rspData (p : Params) : (State.resetOf p).rspData = 0 := rfl
@[simp] theorem resetOf_params (p : Params) : (State.resetOf p).params = p := rfl
@[simp] theorem resetOf_port (p : Params) : (State.resetOf p).port = [] := rfl
@[simp] theorem resetOf_bus (p : Params) : (State.resetOf p).bus = { listed := [], later := .free 0 } := rfl
@[simp] theorem resetOf_resetPin (p : Params) : (State.resetOf p).resetPin = false := rfl
@[simp] theorem resetOf_resets (p : Params) : (State.resetOf p).resets = 0 := rfl

/-! Block reset (70_reset_and_hazards.md R300, R301). -/

@[simp] theorem blockReset_powered (s : State) : (blockReset s).powered = false := rfl
@[simp] theorem blockReset_cfgFault (s : State) : (blockReset s).cfgFault = false := rfl
@[simp] theorem blockReset_capacity (s : State) : (blockReset s).capacity = s.params.capMax := rfl
@[simp] theorem blockReset_retryLimit (s : State) : (blockReset s).retryLimit = 0 := rfl
@[simp] theorem blockReset_retryUnbounded (s : State) : (blockReset s).retryUnbounded = true := rfl
@[simp] theorem blockReset_ffc (s : State) : (blockReset s).ffc = 0 := rfl
@[simp] theorem blockReset_lastRsp (s : State) : (blockReset s).lastRsp = 0 := rfl
@[simp] theorem blockReset_lastAttempts (s : State) : (blockReset s).lastAttempts = 0 := rfl
@[simp] theorem blockReset_ce (s : State) : (blockReset s).ce = [] := rfl
@[simp] theorem blockReset_fbuf (s : State) : (blockReset s).fbuf = [] := rfl
@[simp] theorem blockReset_fsm (s : State) : (blockReset s).fsm = .idle := rfl
@[simp] theorem blockReset_lOpc (s : State) : (blockReset s).lOpc = 0 := rfl
@[simp] theorem blockReset_lFidx (s : State) : (blockReset s).lFidx = 0 := rfl
@[simp] theorem blockReset_att (s : State) : (blockReset s).att = 0 := rfl
@[simp] theorem blockReset_req (s : State) : (blockReset s).req = 0 := rfl
@[simp] theorem blockReset_save (s : State) : (blockReset s).save = [] := rfl
@[simp] theorem blockReset_rspStatus (s : State) : (blockReset s).rspStatus = 0 := rfl
@[simp] theorem blockReset_rspData (s : State) : (blockReset s).rspData = 0 := rfl
@[simp] theorem blockReset_params (s : State) : (blockReset s).params = s.params := rfl
@[simp] theorem blockReset_port (s : State) : (blockReset s).port = s.port := rfl
@[simp] theorem blockReset_bus (s : State) : (blockReset s).bus = (if s.fsm = .xchg then busDiscard s.bus else s.bus) := rfl
@[simp] theorem blockReset_resetPin (s : State) : (blockReset s).resetPin = false := rfl
@[simp] theorem blockReset_resets (s : State) : (blockReset s).resets = s.resets + 1 := rfl

end Sys2Proof.Machine
end

