-- ==== Sys2Proof/Laws/Memory.lean ====
section
/-! SUPPORT. The laws of a frame buffer: the canonical form is kept, a read after a write, and the whole frame. -/

namespace Sys2Proof.Machine

/-! ### The canonical form -/

theorem wfFrom_mono {lo lo' : Nat} (h : lo' ≤ lo) {m : Memory} (w : Memory.wfFrom lo m = true) :
    Memory.wfFrom lo' m = true := by
  cases m with
  | nil => rfl
  | cons c l =>
    simp only [Memory.wfFrom, Bool.and_eq_true, decide_eq_true_eq] at w ⊢
    exact ⟨⟨le_trans h w.1.1, w.1.2⟩, w.2⟩

theorem write_wfFrom {lo a : Nat} {v : Byte} {m : Memory} (w : Memory.wfFrom lo m = true) (hlo : lo ≤ a)
    (ha : a < frameBytes) : Memory.wfFrom lo (m.write a v) = true := by
  induction m generalizing lo with
  | nil => simp [Memory.write, Memory.wfFrom, hlo, ha]
  | cons c l ih =>
    obtain ⟨b, u⟩ := c
    simp only [Memory.wfFrom, Bool.and_eq_true, decide_eq_true_eq] at w
    unfold Memory.write
    split
    · rename_i h
      have := w.1.2
      simp only [Memory.wfFrom, Bool.and_eq_true, decide_eq_true_eq]
      exact ⟨⟨hlo, ha⟩, ⟨Nat.succ_le_of_lt h, this⟩, w.2⟩
    · split
      · rename_i h
        subst h
        simp only [Memory.wfFrom, Bool.and_eq_true, decide_eq_true_eq]
        exact w
      · simp only [Memory.wfFrom, Bool.and_eq_true, decide_eq_true_eq]
        exact ⟨w.1, ih w.2 (by omega)⟩

/-- A write keeps the canonical form. -/
theorem write_wf {a : Nat} {v : Byte} {m : Memory} (w : m.wf = true) (ha : a < frameBytes) :
    Memory.wf (m.write a v) = true := write_wfFrom w (Nat.zero_le _) ha

theorem ofBytes_wfFrom (a : Nat) (l : List Byte) (h : a + l.length ≤ frameBytes) :
    Memory.wfFrom a (Memory.ofBytes a l) = true := by
  induction l generalizing a with
  | nil => rfl
  | cons b l ih =>
    simp only [List.length_cons] at h
    simp only [Memory.ofBytes, Memory.wfFrom, Bool.and_eq_true, decide_eq_true_eq]
    exact ⟨⟨le_refl _, by omega⟩, ih (a + 1) (by omega)⟩

/-- A buffer that holds a whole frame is in canonical form. -/
@[simp] theorem ofFrame_wf (f : Frame) : (Memory.ofFrame f).wf = true :=
  ofBytes_wfFrom 0 f.toList (by simp [frameBytes])

/-- The empty buffer, FBUF at reset, is in canonical form. -/
@[simp] theorem nil_wf : Memory.wf [] = true := rfl

/-! ### Reads and writes -/

theorem find?_write (m : Memory) (a b : Nat) (v : Byte) :
    (m.write a v).find? b = if b = a then some v else m.find? b := by
  induction m with
  | nil => simp [Memory.write, Memory.find?, eq_comm]
  | cons c l ih =>
    obtain ⟨x, u⟩ := c
    unfold Memory.write
    split
    · simp only [Memory.find?]
      by_cases h : b = a
      · simp [h]
      · simp [h, Ne.symm h]
    · split
      · rename_i h; subst h
        simp only [Memory.find?]
        by_cases h : b = a
        · simp [h]
        · simp [h, Ne.symm h]
      · simp only [Memory.find?, ih]
        by_cases h : x = b
        · subst h
          simp; omega
        · simp [h]

/-- WHAT A WRITE DOES: the byte written reads back, every other address reads as before. -/
theorem read_write (r : Nat) (m : Memory) (a b : Nat) (v : Byte) :
    (m.write a v).read r b = if b = a then v else m.read r b := by
  simp only [Memory.read, find?_write]
  split <;> simp

theorem find?_none_of_wfFrom {lo a : Nat} {m : Memory} (w : Memory.wfFrom lo m = true) (h : a < lo) :
    m.find? a = none := by
  induction m generalizing lo with
  | nil => rfl
  | cons c l ih =>
    obtain ⟨b, u⟩ := c
    simp only [Memory.wfFrom, Bool.and_eq_true, decide_eq_true_eq] at w
    simp only [Memory.find?]
    rw [if_neg (by omega)]
    exact ih w.2 (by omega)

/-! ### The whole frame -/

theorem bytes_getElem? (r n a k : Nat) (m : Memory) (w : Memory.wfFrom a m = true) (hk : k < n) :
    (Memory.bytes r n a m)[k]? = some (m.read r (a + k)) := by
  induction n generalizing a k m with
  | zero => omega
  | succ n ih =>
    match m, w with
    | [], w =>
      cases k with
      | zero => simp [Memory.bytes, Memory.read, Memory.find?]
      | succ k =>
        simp only [Memory.bytes, List.getElem?_cons_succ]
        rw [ih (a + 1) k [] rfl (by omega)]
        congr 2; omega
    | (b, v) :: l, w =>
      simp only [Memory.wfFrom, Bool.and_eq_true, decide_eq_true_eq] at w
      unfold Memory.bytes
      split
      · rename_i hb; subst hb
        cases k with
        | zero => simp [Memory.read, Memory.find?]
        | succ k =>
          simp only [List.getElem?_cons_succ]
          rw [ih (b + 1) k l w.2 (by omega)]
          simp only [Memory.read, Memory.find?]
          rw [if_neg (by omega)]
          rw [show b + 1 + k = b + (k + 1) by omega]
      · rename_i hb
        have wl : Memory.wfFrom (a + 1) ((b, v) :: l) = true := by
          simp only [Memory.wfFrom, Bool.and_eq_true, decide_eq_true_eq]
          have hab := w.1.1
          exact ⟨⟨by omega, w.1.2⟩, w.2⟩
        cases k with
        | zero =>
          have : Memory.find? ((b, v) :: l) a = none := find?_none_of_wfFrom wl (by omega)
          simp [Memory.read, this]
        | succ k =>
          simp only [List.getElem?_cons_succ]
          rw [ih (a + 1) k _ wl (by omega)]
          congr 2; omega

/-- Byte `k` of the frame a buffer holds is the byte read at address `k` (20_memory.md R63). -/
theorem toFrame_getElem (r : Nat) (m : Memory) (w : m.wf = true) (k : Nat) (hk : k < 4096) :
    (m.toFrame r)[k] = m.read r k := by
  have h := bytes_getElem? r frameBytes 0 k m w hk
  simp only [Nat.zero_add] at h
  have hl : k < (Memory.bytes r frameBytes 0 m).length := by rw [Memory.bytes_length]; exact hk
  rw [List.getElem?_eq_getElem hl] at h
  simpa [Memory.toFrame] using h

theorem bytes_ofBytes (r a : Nat) (l : List Byte) :
    Memory.bytes r l.length a (Memory.ofBytes a l) = l := by
  induction l generalizing a with
  | nil => rfl
  | cons b l ih => simp [Memory.bytes, Memory.ofBytes, ih]

/-- A buffer that was given a frame holds that frame (20_memory.md R63). -/
@[simp] theorem toFrame_ofFrame (r : Nat) (f : Frame) : (Memory.ofFrame f).toFrame r = f := by
  apply Vector.toList_inj.mp
  have h := bytes_ofBytes r 0 f.toList
  rw [Vector.length_toList] at h
  simpa [Memory.toFrame, Memory.ofFrame, Vector.toList] using h

end Sys2Proof.Machine
end

