-- ==== Sys2Proof/Laws/Ops.lean ====
section
/-! SUPPORT. One lemma for each shared operation that says everything it can do. -/

namespace Sys2Proof.Machine

/-! ### The bus and the exchange -/

/-- Everything `busNext` can answer. -/
theorem busNext_cases {b b' : BusSource} {w : Word} {p : Frame} {a : BusAnswer}
    (h : busNext b w p = some (a, b')) :
    (∃ l, b.listed = a :: l ∧ b' = { b with listed := l }) ∨
    (b.listed = [] ∧ b.later = .repeating a ∧ b' = b) ∨
    (∃ k, b.listed = [] ∧ b.later = .free k ∧ Config.busAnswer k w p = some a ∧ b' = { b with later := .free (k + 1) }) := by
  obtain ⟨listed, later⟩ := b
  cases listed with
  | cons x l =>
    simp only [busNext, Option.some.injEq, Prod.mk.injEq] at h
    obtain ⟨rfl, rfl⟩ := h
    exact .inl ⟨l, rfl, rfl⟩
  | nil =>
    cases later with
    | silent => simp [busNext] at h
    | repeating x =>
      simp only [busNext, Option.some.injEq, Prod.mk.injEq] at h
      obtain ⟨rfl, rfl⟩ := h
      exact .inr (.inl ⟨rfl, rfl, rfl⟩)
    | free k =>
      simp only [busNext, Option.map_eq_some_iff, Prod.mk.injEq] at h
      obtain ⟨x, hx, rfl, rfl⟩ := h
      exact .inr (.inr ⟨k, rfl, rfl, hx, rfl⟩)

@[simp] theorem busNext_listed (a : BusAnswer) (l : List BusAnswer) (later : BusLater) (w : Word) (p : Frame) :
    busNext ⟨a :: l, later⟩ w p = some (a, ⟨l, later⟩) := rfl

@[simp] theorem busNext_repeating (a : BusAnswer) (w : Word) (p : Frame) :
    busNext ⟨[], .repeating a⟩ w p = some (a, ⟨[], .repeating a⟩) := rfl

/-- Everything an exchange can do: it waits, or the answer is taken over (40_protocol_engine.md R118, R120). -/
theorem exchange_cases (w : Word) (s : State) :
    (busNext s.bus w (payload s) = none ∧ exchange w s = s) ∨
    ∃ a b', busNext s.bus w (payload s) = some (a, b') ∧
      exchange w s = { s with bus := b', fbuf := Memory.ofFrame a.frame, lastRsp := a.word, att := satInc s.att,
                              lastAttempts := satInc s.att, fsm := .check } := by
  unfold exchange
  cases h : busNext s.bus w (payload s) with
  | none => exact .inl ⟨rfl, rfl⟩
  | some r => exact .inr ⟨r.1, r.2, rfl, rfl⟩

theorem exchange_of_answer {w : Word} {s : State} {a : BusAnswer} {b' : BusSource}
    (h : busNext s.bus w (payload s) = some (a, b')) :
    exchange w s = { s with bus := b', fbuf := Memory.ofFrame a.frame, lastRsp := a.word, att := satInc s.att,
                            lastAttempts := satInc s.att, fsm := .check } := by
  simp only [exchange, h]

theorem exchange_of_silence {w : Word} {s : State} (h : busNext s.bus w (payload s) = none) : exchange w s = s := by
  simp only [exchange, h]

/-! ### Judging an answer -/

/-- Everything CHECK can do (40_protocol_engine.md R121). -/
theorem judge_cases (s : State) :
    (success s.params s.lastRsp s.fbufFrame = true ∧ judge s = respond false s.lastRsp s) ∨
    (success s.params s.lastRsp s.fbufFrame = false ∧ exhausted s = true ∧
      judge s = raise .retryExhausted s.lastRsp s) ∨
    (success s.params s.lastRsp s.fbufFrame = false ∧ exhausted s = false ∧ judge s = { s with fsm := .prep }) := by
  unfold judge
  cases success s.params s.lastRsp s.fbufFrame <;> cases exhausted s <;> simp

theorem exhausted_iff (s : State) :
    exhausted s = true ↔ s.retryUnbounded = false ∧ s.retryLimit.toNat < s.att.toNat := by
  simp [exhausted, BitVec.lt_def]

/-- ATT saturates (40_protocol_engine.md R120). -/
theorem satInc_toNat (n : BitVec 32) : (satInc n).toNat = min (n.toNat + 1) 0xFFFFFFFF := by
  unfold satInc
  have := n.isLt
  split
  · rename_i h; subst h; rfl
  · rename_i h
    have h' : n.toNat ≠ 0xFFFFFFFF := fun hn => h (BitVec.eq_of_toNat_eq hn)
    rw [BitVec.toNat_add, show (1 : BitVec 32).toNat = 1 from rfl]
    omega

/-! ### The cache -/

/-- A found entry: it stands at the reported position, it matches, and nothing before it does. -/
theorem cacheFind_some {mode : KeyMode} {sid : StoreId} {fidx : FrameIndex} {l : List CacheEntry} {i : Nat}
    {e : CacheEntry} (h : cacheFind mode sid fidx l = some (i, e)) :
    l[i]? = some e ∧ keyMatch mode sid fidx e = true ∧
      ∀ j e', j < i → l[j]? = some e' → keyMatch mode sid fidx e' = false := by
  induction l generalizing i with
  | nil => simp [cacheFind] at h
  | cons x l ih =>
    unfold cacheFind at h
    split at h
    · rename_i hx
      simp only [Option.some.injEq, Prod.mk.injEq] at h
      obtain ⟨rfl, rfl⟩ := h
      exact ⟨rfl, hx, fun j e' hj => absurd hj (Nat.not_lt_zero _)⟩
    · rename_i hx
      simp only [Option.map_eq_some_iff, Prod.mk.injEq] at h
      obtain ⟨⟨k, e2⟩, hk, rfl, rfl⟩ := h
      obtain ⟨h1, h2, h3⟩ := ih hk
      refine ⟨by simpa using h1, h2, fun j e' hj he => ?_⟩
      cases j with
      | zero =>
        simp only [List.getElem?_cons_zero, Option.some.injEq] at he
        subst he; simpa using hx
      | succ j => exact h3 j e' (by omega) (by simpa using he)

/-- No entry is found exactly when none matches. -/
theorem cacheFind_none {mode : KeyMode} {sid : StoreId} {fidx : FrameIndex} {l : List CacheEntry} :
    cacheFind mode sid fidx l = none ↔ ∀ e ∈ l, keyMatch mode sid fidx e = false := by
  induction l with
  | nil => simp [cacheFind]
  | cons x l ih =>
    unfold cacheFind
    split
    · rename_i hx; simp [hx]
    · rename_i hx
      simp only [Option.map_eq_none_iff, ih, List.mem_cons, forall_eq_or_imp]
      exact ⟨fun h => ⟨by simpa using hx, h⟩, fun h => h.2⟩

theorem cacheFind_mem {mode : KeyMode} {sid : StoreId} {fidx : FrameIndex} {l : List CacheEntry} {i : Nat}
    {e : CacheEntry} (h : cacheFind mode sid fidx l = some (i, e)) : e ∈ l :=
  List.mem_of_getElem? (cacheFind_some h).1

/-- The match of an entry looks at its key only (42_frame_cache.md R161). -/
theorem keyMatch_congr {mode : KeyMode} {sid : StoreId} {fidx : FrameIndex} {e e' : CacheEntry}
    (h1 : e.sid = e'.sid) (h2 : e.fidx = e'.fidx) : keyMatch mode sid fidx e = keyMatch mode sid fidx e' := by
  cases mode <;> simp [keyMatch, h1, h2]

theorem keyMatch_self (mode : KeyMode) (e : CacheEntry) : keyMatch mode e.sid e.fidx e = true := by
  cases mode <;> simp [keyMatch]

/-- Everything CUPSERT's four steps can do (42_frame_cache.md R163). -/
theorem upsert_cases (sid : StoreId) (fidx : FrameIndex) (s : State) :
    (s.ce = [] ∧ upsert sid fidx s = ([newEntry sid fidx s], 1)) ∨
    (∃ i e, cacheFind s.params.keyMode sid fidx s.ce = some (i, e) ∧
      upsert sid fidx s = ({ e with data := s.fbuf } :: s.ce.eraseIdx i, upsertData 0x02 e)) ∨
    (s.ce ≠ [] ∧ cacheFind s.params.keyMode sid fidx s.ce = none ∧ s.ce.length < s.capacity.toNat ∧
      upsert sid fidx s = (newEntry sid fidx s :: s.ce, 3)) ∨
    (∃ hne : s.ce ≠ [], cacheFind s.params.keyMode sid fidx s.ce = none ∧ s.capacity.toNat ≤ s.ce.length ∧
      upsert sid fidx s = (newEntry sid fidx s :: s.ce.dropLast, upsertData 0x04 (s.ce.getLast hne))) := by
  obtain ⟨ce, hce⟩ : ∃ ce, s.ce = ce := ⟨_, rfl⟩
  cases ce with
  | nil => exact .inl ⟨hce, by simp only [upsert]; split <;> simp_all⟩
  | cons t l =>
    cases hf : cacheFind s.params.keyMode sid fidx s.ce with
    | some r =>
      refine .inr (.inl ⟨r.1, r.2, rfl, ?_⟩)
      simp only [upsert]
      split
      · simp_all
      · simp only [hf]
    | none =>
      by_cases hlt : s.ce.length < s.capacity.toNat
      · refine .inr (.inr (.inl ⟨by simp [hce], rfl, hlt, ?_⟩))
        simp only [upsert]
        split
        · simp_all
        · simp only [hf, hlt, if_true]
      · refine .inr (.inr (.inr ⟨by simp [hce], rfl, Nat.le_of_not_lt hlt, ?_⟩))
        simp only [upsert]
        split
        · simp_all
        · rename_i t' l' h'
          simp only [hf, hlt, if_false]
          congr 3
          all_goals simp only [h']

/-! ### The control and status registers -/

/-- The defined numbers name their CSR (10_state.md R25). -/
@[simp] theorem csrOfNumber_number (r : Csr) : csrOfNumber r.number = some r := by
  cases r <;> rfl

/-- The numbers above 0x0A are reserved (10_state.md R37). -/
theorem csrOfNumber_none_iff (n : BitVec 8) : csrOfNumber n = none ↔ 0x0A < n.toNat := by
  revert n
  decide

theorem csrOfNumber_some_iff (n : BitVec 8) (r : Csr) : csrOfNumber n = some r ↔ n = r.number := by
  revert n
  cases r <;> decide

/-- Everything a write to CAPACITY can do (44_lifecycle_access.md R205). -/
theorem writeCapacity_cases (v : BitVec 48) (s : State) :
    (capReserved v ≠ 0 ∧ writeCapacity v s = raise .badCommand 0 s) ∨
    (capReserved v = 0 ∧ s.powered = true ∧ writeCapacity v s = raise .cfgLate 0 { s with cfgFault := true }) ∨
    (capReserved v = 0 ∧ s.powered = false ∧ (capField v = 0 ∨ s.params.capMax < capField v) ∧
      writeCapacity v s = raise .badCommand 0 s) ∨
    (capReserved v = 0 ∧ s.powered = false ∧ capField v ≠ 0 ∧ capField v ≤ s.params.capMax ∧
      writeCapacity v s = respond false 0 { s with capacity := capField v }) := by
  unfold writeCapacity
  by_cases h1 : capReserved v = 0
  · cases h2 : s.powered
    · by_cases h3 : capField v = 0 ∨ s.params.capMax < capField v
      · exact .inr (.inr (.inl ⟨h1, rfl, h3, by rw [if_neg (not_not.mpr h1), if_neg (by simp), if_pos h3]⟩))
      · have h3' := h3
        rw [not_or] at h3
        refine .inr (.inr (.inr ⟨h1, rfl, h3.1, BitVec.not_lt.mp h3.2, ?_⟩))
        rw [if_neg (not_not.mpr h1), if_neg (by simp), if_neg h3']
    · exact .inr (.inl ⟨h1, rfl, by rw [if_neg (not_not.mpr h1), if_pos rfl]⟩)
  · exact .inl ⟨h1, if_pos h1⟩

/-- Everything a write to RETRY can do (44_lifecycle_access.md R205). -/
theorem writeRetry_cases (v : BitVec 48) (s : State) :
    (retryReserved v ≠ 0 ∧ writeRetry v s = raise .badCommand 0 s) ∨
    (retryReserved v = 0 ∧ writeRetry v s =
      respond false 0 { s with retryLimit := limitField v, retryUnbounded := unboundedField v }) := by
  unfold writeRetry
  by_cases h : retryReserved v = 0
  · exact .inr ⟨h, if_neg (not_not.mpr h)⟩
  · exact .inl ⟨h, if_pos h⟩

end Sys2Proof.Machine
end

