-- ==== Sys2Proof/Laws/PerInstr.lean ====
section
/-! SUPPORT. The per-instruction family `TableRow`: an instruction's word fits its row of spec/opcode_table.json
(30_encoding.md R88; R92 with the default OPCODE_MAP and LSB_FIRST). -/

namespace Sys2Proof.Laws

/-- The encoding of `i`, under the mask of its row, is the row's match. -/
def TableRow.Statement (i : Instr) : Prop :=
  encode Params.default i &&& i.rowMask = i.rowMatch

/-- A bus register word's opcode field is its low byte under LSB_FIRST (30_encoding.md R91). -/
theorem pack_lsbFirst_low (r : BusReg) : pack .lsbFirst r &&& 0xFF = r.opcode.setWidth 64 := by
  simp only [pack]
  ext k hk
  interval_cases k <;> simp

theorem TableRow.pwrOn : TableRow.Statement .pwrOn := by unfold TableRow.Statement; decide

theorem TableRow.pwrOff : TableRow.Statement .pwrOff := by unfold TableRow.Statement; decide

theorem TableRow.exec (opc : BitVec 8) (fidx : FrameIndex) : TableRow.Statement (.exec opc fidx) := by
  simp only [TableRow.Statement, encode, Instr.rowMask, Instr.rowMatch]
  ext k hk
  interval_cases k <;> simp

theorem TableRow.clookup (sid : StoreId) (fidx : FrameIndex) : TableRow.Statement (.clookup sid fidx) := by
  simp only [TableRow.Statement, encode, Instr.rowMask, Instr.rowMatch]
  ext k hk
  interval_cases k <;> simp

theorem TableRow.cupsert (sid : StoreId) (fidx : FrameIndex) : TableRow.Statement (.cupsert sid fidx) := by
  simp only [TableRow.Statement, encode, Instr.rowMask, Instr.rowMatch]
  ext k hk
  interval_cases k <;> simp

theorem TableRow.alloc (have_ : BitVec 20) (need : BitVec 32) : TableRow.Statement (.alloc have_ need) := by
  simp only [TableRow.Statement, encode, Instr.rowMask, Instr.rowMatch]
  ext k hk
  interval_cases k <;> simp

theorem TableRow.fbrd (addr : BitVec 12) : TableRow.Statement (.fbrd addr) := by
  simp only [TableRow.Statement, encode, Instr.rowMask, Instr.rowMatch]
  ext k hk
  interval_cases k <;> simp

theorem TableRow.fbwr (addr : BitVec 12) (data : Byte) : TableRow.Statement (.fbwr addr data) := by
  simp only [TableRow.Statement, encode, Instr.rowMask, Instr.rowMatch]
  ext k hk
  interval_cases k <;> simp

theorem TableRow.csrr (csr : BitVec 8) : TableRow.Statement (.csrr csr) := by
  simp only [TableRow.Statement, encode, Instr.rowMask, Instr.rowMatch]
  ext k hk
  interval_cases k <;> simp

theorem TableRow.csrw (csr : BitVec 8) (value : BitVec 48) : TableRow.Statement (.csrw csr value) := by
  simp only [TableRow.Statement, encode, Instr.rowMask, Instr.rowMatch]
  ext k hk
  interval_cases k <;> simp

theorem TableRow.opDeviceInit (fidx : FrameIndex) (csum : BitVec 32) (rc : BitVec 8) :
    TableRow.Statement (.opDeviceInit fidx csum rc) := pack_lsbFirst_low _

theorem TableRow.opZeroAll (fidx : FrameIndex) (csum : BitVec 32) (rc : BitVec 8) :
    TableRow.Statement (.opZeroAll fidx csum rc) := pack_lsbFirst_low _

theorem TableRow.opPowerOff (fidx : FrameIndex) (csum : BitVec 32) (rc : BitVec 8) :
    TableRow.Statement (.opPowerOff fidx csum rc) := pack_lsbFirst_low _

theorem TableRow.opFrameRead (fidx : FrameIndex) (csum : BitVec 32) (rc : BitVec 8) :
    TableRow.Statement (.opFrameRead fidx csum rc) := pack_lsbFirst_low _

theorem TableRow.opFrameWrite (fidx : FrameIndex) (csum : BitVec 32) (rc : BitVec 8) :
    TableRow.Statement (.opFrameWrite fidx csum rc) := pack_lsbFirst_low _

end Sys2Proof.Laws
end

