-- ==== Sys2Proof/Laws/Step.lean ====
section
/-! SUPPORT. Everything a step can do, and everything a command can do to the fields no command names. -/

namespace Sys2Proof.Machine

/-- The command port decodes to host commands only (30_encoding.md R88). -/
theorem decode_isCommand {w : Word} {i : Instr} (h : decode w = .instr i) : i.isCommand = true := by
  unfold decode at h
  repeat' split at h
  all_goals first
    | (cases h; rfl)
    | exact absurd h (by simp)

/-- A request runs as the exchange of its word. -/
theorem runRequest_cases (s : State) :
    (decodeBus s.params s.req = none ∧ runRequest s = .internal (exchange s.req s)) ∨
    ∃ i, decodeBus s.params s.req = some i ∧ runRequest s = .run i s ∧
      exec i s = .next (exchange (encode s.params i) s) := by
  unfold runRequest
  cases h : decodeBus s.params s.req with
  | none => exact .inl ⟨rfl, rfl⟩
  | some i =>
    refine .inr ⟨i, rfl, rfl, ?_⟩
    unfold decodeBus at h
    simp only at h
    repeat' split at h
    all_goals first
      | (cases h; rfl)
      | exact absurd h (by simp)

/-- EVERYTHING A STEP CAN DO: one case for each way of 40_protocol_engine.md R121, and block reset. -/
theorem step_cases {s t : State} (h : step s = .next t) :
    (s.resetPin = true ∧ t = blockReset s) ∨
    s.resetPin = false ∧
      ((s.fsm = .idle ∧ s.port = [] ∧ t = s) ∨
       (∃ w rest why, s.fsm = .idle ∧ s.port = w :: rest ∧ decode w = .illegal why ∧
          t = raise .badCommand 0 { s with port := rest }) ∨
       (∃ w rest i, s.fsm = .idle ∧ s.port = w :: rest ∧ decode w = .instr i ∧ i.isCommand = true ∧
          exec i { s with port := rest } = .next t) ∨
       (s.fsm = .prep ∧ t = prepare s) ∨
       (s.fsm = .xchg ∧ ∃ w, t = exchange w s) ∨
       (s.fsm = .check ∧ t = judge s)) := by
  unfold step fetch at h
  obtain hr | hr := Bool.eq_false_or_eq_true s.resetPin
  · simp only [hr, if_true, Host.Outcome.next.injEq] at h
    exact .inl ⟨hr, h.symm⟩
  · refine .inr ⟨hr, ?_⟩
    simp only [hr, Bool.false_eq_true, if_false] at h
    obtain ⟨f, hf⟩ : ∃ f, s.fsm = f := ⟨_, rfl⟩
    simp only [hf] at h
    cases f with
    | idle =>
      simp only at h
      unfold acceptCommand at h
      cases hp : s.port with
      | nil =>
        simp only [hp, Host.Outcome.next.injEq] at h
        exact .inl ⟨hf, rfl, h.symm⟩
      | cons w rest =>
        simp only [hp] at h
        cases hd : decode w with
        | instr i =>
          simp only [hd] at h
          exact .inr (.inr (.inl ⟨w, rest, i, hf, rfl, hd, decode_isCommand hd, h⟩))
        | illegal why =>
          simp only [hd, Host.Outcome.next.injEq] at h
          exact .inr (.inl ⟨w, rest, why, hf, rfl, hd, h.symm⟩)
    | prep =>
      simp only [Host.Outcome.next.injEq] at h
      exact .inr (.inr (.inr (.inl ⟨hf, h.symm⟩)))
    | xchg =>
      simp only at h
      refine .inr (.inr (.inr (.inr (.inl ⟨hf, ?_⟩))))
      obtain ⟨_, hx⟩ | ⟨i, _, hx, he⟩ := runRequest_cases s
      · simp only [hx, Host.Outcome.next.injEq] at h
        exact ⟨s.req, h.symm⟩
      · simp only [hx, he, Host.Outcome.next.injEq] at h
        exact ⟨_, h.symm⟩
    | check =>
      simp only [Host.Outcome.next.injEq] at h
      exact .inr (.inr (.inr (.inr (.inr ⟨hf, h.symm⟩))))

/-- EVERYTHING A COMMAND CAN DO to the fields of the engine, the environment and the power state. -/
theorem exec_command_cases {i : Instr} {s t : State} (hi : i.isCommand = true) (h : exec i s = .next t) :
    (∃ opc fidx, i = .exec opc fidx ∧ s.powered = true ∧ t = latch opc fidx s) ∨
    (∃ cause, t = raise cause 0 s ∧ cause ≠ .none ∧ cause ≠ .cfgLate) ∨
    (∃ v, i = .csrw 0x00 v ∧ s.powered = true ∧ t = raise .cfgLate 0 { s with cfgFault := true }) ∨
    (∃ hit data s', t = respond hit data s' ∧
      (s' = s ∨
       (i = .pwrOn ∧ s.powered = false ∧ s' = { s with powered := true, ce := [], ffc := 0 }) ∨
       (i = .pwrOff ∧ s.powered = true ∧ s' = { s with ce := [], powered := false }) ∨
       (∃ sid fidx k e, i = .clookup sid fidx ∧ s.powered = true ∧
          cacheFind s.params.keyMode sid fidx s.ce = some (k, e) ∧ s' = { s with fbuf := e.data }) ∨
       (∃ sid fidx, i = .cupsert sid fidx ∧ s.powered = true ∧ s' = { s with ce := (upsert sid fidx s).1 }) ∨
       (∃ have_ need, i = .alloc have_ need ∧ s.powered = true ∧
          (framesNeeded have_ need = 0 ∨ s.ffc.toNat + framesNeeded have_ need ≤ s.params.deviceFrames.toNat) ∧
          s' = { s with ffc := BitVec.ofNat 17 (s.ffc.toNat + framesNeeded have_ need) }) ∨
       (∃ a v, i = .fbwr a v ∧ s' = s.writeFbuf a v) ∨
       (∃ v, i = .csrw 0x00 v ∧ s.powered = false ∧ capField v ≠ 0 ∧ capField v ≤ s.params.capMax ∧
          s' = { s with capacity := capField v }) ∨
       (∃ v, i = .csrw 0x01 v ∧
          s' = { s with retryLimit := limitField v, retryUnbounded := unboundedField v }))) := by
  cases i with
  | pwrOn =>
    simp only [exec, execPwrOn] at h
    cases hp : s.powered <;> simp only [hp, if_true, if_false, Bool.false_eq_true, Host.Outcome.next.injEq] at h <;>
      subst h
    · exact .inr (.inr (.inr ⟨_, _, _, rfl, .inr (.inl ⟨rfl, rfl, by simp⟩)⟩))
    · exact .inr (.inr (.inr ⟨_, _, _, rfl, .inl rfl⟩))
  | pwrOff =>
    simp only [exec, execPwrOff] at h
    cases hp : s.powered <;> simp only [hp, if_true, if_false, Bool.false_eq_true, Host.Outcome.next.injEq] at h <;>
      subst h
    · exact .inr (.inl ⟨_, rfl, by decide, by decide⟩)
    · exact .inr (.inr (.inr ⟨_, _, _, rfl, .inr (.inr (.inl ⟨rfl, rfl, by simp⟩))⟩))
  | exec opc fidx =>
    simp only [exec, execExec] at h
    cases hp : s.powered <;> simp only [hp, if_true, if_false, Bool.false_eq_true, Host.Outcome.next.injEq] at h <;>
      subst h
    · exact .inr (.inl ⟨_, rfl, by decide, by decide⟩)
    · exact .inl ⟨_, _, rfl, rfl, rfl⟩
  | clookup sid fidx =>
    simp only [exec, execClookup] at h
    cases hp : s.powered <;> simp only [hp, if_true, if_false, Bool.false_eq_true] at h
    · cases h; exact .inr (.inl ⟨_, rfl, by decide, by decide⟩)
    · cases hc : cacheFind s.params.keyMode sid fidx s.ce with
      | none =>
        simp only [hc, Host.Outcome.next.injEq] at h; subst h
        exact .inr (.inr (.inr ⟨_, _, _, rfl, .inl rfl⟩))
      | some r =>
        simp only [hc, Host.Outcome.next.injEq] at h; subst h
        exact .inr (.inr (.inr ⟨_, _, _, rfl, .inr (.inr (.inr (.inl ⟨sid, fidx, r.1, r.2, rfl, rfl, hc, by simp⟩)))⟩))
  | cupsert sid fidx =>
    simp only [exec, execCupsert] at h
    cases hp : s.powered <;> simp only [hp, if_true, if_false, Bool.false_eq_true, Host.Outcome.next.injEq] at h <;>
      subst h
    · exact .inr (.inl ⟨_, rfl, by decide, by decide⟩)
    · exact .inr (.inr (.inr ⟨_, _, _, rfl, .inr (.inr (.inr (.inr (.inl ⟨sid, fidx, rfl, rfl, by simp⟩))))⟩))
  | alloc have_ need =>
    simp only [exec, execAlloc] at h
    cases hp : s.powered <;> simp only [hp, if_true, if_false, Bool.false_eq_true] at h
    · cases h; exact .inr (.inl ⟨_, rfl, by decide, by decide⟩)
    · split at h
      · cases h; exact .inr (.inl ⟨_, rfl, by decide, by decide⟩)
      · rename_i hk
        cases h
        refine .inr (.inr (.inr ⟨_, _, _, rfl,
          .inr (.inr (.inr (.inr (.inr (.inl ⟨have_, need, rfl, rfl, by omega, by simp⟩)))))⟩))
  | fbrd a => cases h; exact .inr (.inr (.inr ⟨_, _, _, rfl, .inl rfl⟩))
  | fbwr a v =>
    cases h
    exact .inr (.inr (.inr ⟨_, _, _, rfl, .inr (.inr (.inr (.inr (.inr (.inr (.inl ⟨a, v, rfl, rfl⟩))))))⟩))
  | csrr n =>
    simp only [exec, execCsrr] at h
    split at h
    · cases h; exact .inr (.inr (.inr ⟨_, _, _, rfl, .inl rfl⟩))
    · cases h; exact .inr (.inl ⟨_, rfl, by decide, by decide⟩)
  | csrw n v =>
    simp only [exec, execCsrw] at h
    split at h
    all_goals cases h
    · rename_i hn
      obtain rfl := (csrOfNumber_some_iff n _).mp hn
      obtain ⟨_, hw⟩ | ⟨_, hp, hw⟩ | ⟨_, _, _, hw⟩ | ⟨_, hp, h0, hle, hw⟩ := writeCapacity_cases v s
      · rw [hw]; exact .inr (.inl ⟨_, rfl, by decide, by decide⟩)
      · rw [hw]; exact .inr (.inr (.inl ⟨v, rfl, hp, rfl⟩))
      · rw [hw]; exact .inr (.inl ⟨_, rfl, by decide, by decide⟩)
      · rw [hw]
        exact .inr (.inr (.inr ⟨_, _, _, rfl,
          .inr (.inr (.inr (.inr (.inr (.inr (.inr (.inl ⟨v, rfl, hp, h0, hle, rfl⟩)))))))⟩))
    · rename_i hn
      obtain rfl := (csrOfNumber_some_iff n _).mp hn
      obtain ⟨_, hw⟩ | ⟨_, hw⟩ := writeRetry_cases v s
      · rw [hw]; exact .inr (.inl ⟨_, rfl, by decide, by decide⟩)
      · rw [hw]
        exact .inr (.inr (.inr ⟨_, _, _, rfl,
          .inr (.inr (.inr (.inr (.inr (.inr (.inr (.inr ⟨v, rfl, rfl⟩)))))))⟩))
    all_goals exact .inr (.inl ⟨_, rfl, by decide, by decide⟩)
  | opDeviceInit _ _ _ => simp [Instr.isCommand] at hi
  | opZeroAll _ _ _ => simp [Instr.isCommand] at hi
  | opPowerOff _ _ _ => simp [Instr.isCommand] at hi
  | opFrameRead _ _ _ => simp [Instr.isCommand] at hi
  | opFrameWrite _ _ _ => simp [Instr.isCommand] at hi

/-! ### Runs -/

@[simp] theorem runFor_zero (s : State) : runFor 0 s = .next s := rfl

theorem runFor_succ {s t : State} (n : Nat) (h : step s = .next t) : runFor (n + 1) s = runFor n t := by
  have h' : Sys2Proof.core.step s = .next t := h
  simp only [runFor, Host.Core.run, h']
  rfl

end Sys2Proof.Machine
end

