-- ==== Sys2Proof/Tests/Slice0.lean ====
section
/-! SUPPORT. The model's own tests: words written out from the spec's encodings, one-step checks with results from the
spec's examples and vectors, and for each statement with hypotheses a concrete state that meets them. -/

namespace Sys2Proof.Tests

open Sys2Proof Sys2Proof.Machine

/-! ### Small states -/

/-- On, after reset. -/
def on : State := { State.reset with powered := true }

/-- The command word `w` waits at the port. -/
def given (w : Word) (s : State) : State := { s with port := [w] }

/-- An answer to OP_DEVICE_INIT with return code 0: it succeeds. -/
def goodAnswer : BusAnswer := ⟨0x0000000000000001, zeroFrame⟩

/-- An answer to OP_FRAME_WRITE with return code 2: it fails. -/
def badAnswer : BusAnswer := ⟨0x0200000000000005, zeroFrame⟩

/-- The request `req` is outstanding and the bus answers `a`. -/
def asking (req : Word) (a : BusAnswer) : State :=
  { on with fsm := .xchg, req := req, bus := ⟨[a], .silent⟩ }

/-- CHECK, with the register word `w` as the answer. -/
def checking (w : Word) : State := { on with fsm := .check, lastRsp := w, fbuf := Memory.ofFrame zeroFrame, att := 1 }

/-- The end of a step: the response, or the reason there is none. -/
def response (o : Host.Outcome State Fault Refusal) : Option (Word × Word) :=
  match o with
  | .next s => some (s.rspStatus, s.rspData)
  | .fault _ => none
  | .refused _ => none

/-- A field of the next state. -/
def seen {α : Type} (f : State → α) (o : Host.Outcome State Fault Refusal) : Option α :=
  match o with
  | .next s => some (f s)
  | .fault _ => none
  | .refused _ => none

/-! ### Decoding: words written out from 30_encoding.md R80 to R86, R91, and 95_test_vectors.md -/

theorem test_decode_pwrOn : decode 0x0000000000000001 = .instr .pwrOn := by decide
theorem test_decode_pwrOff : decode 0x0000000000000002 = .instr .pwrOff := by decide
theorem test_decode_exec : decode 0x0000000000640503 = .instr (.exec 0x05 100) := by decide
theorem test_decode_clookup : decode 0x0000000000650104 = .instr (.clookup 1 101) := by decide
theorem test_decode_cupsert : decode 0x0000000000640205 = .instr (.cupsert 2 100) := by decide
theorem test_decode_alloc : decode 0x0000013880000006 = .instr (.alloc 0 5000) := by decide
theorem test_decode_alloc_have : decode 0x0000010000000106 = .instr (.alloc 1 4096) := by decide
theorem test_decode_fbrd : decode 0x00000000000FFF07 = .instr (.fbrd 4095) := by decide
theorem test_decode_fbwr : decode 0x000000000ABFFF08 = .instr (.fbwr 4095 0xAB) := by decide
theorem test_decode_csrr : decode 0x0000000000000109 = .instr (.csrr 0x01) := by decide
theorem test_decode_csrw : decode 0x000100000000010A = .instr (.csrw 0x01 0x100000000) := by decide
theorem test_decode_opDeviceInit : decodeBus Params.default 0x0000000000000001 = some (.opDeviceInit 0 0 0) := by decide
theorem test_decode_opZeroAll : decodeBus Params.default 0x0000000000000002 = some (.opZeroAll 0 0 0) := by decide
theorem test_decode_opPowerOff : decodeBus Params.default 0x0000000000000003 = some (.opPowerOff 0 0 0) := by decide
theorem test_decode_opFrameRead :
    decodeBus Params.default 0x0000001000000304 = some (.opFrameRead 3 0x1000 0) := by decide
theorem test_decode_opFrameWrite :
    decodeBus Params.default 0x0000001000006405 = some (.opFrameWrite 0x64 0x1000 0) := by decide
theorem test_decode_msbFirst :
    decodeBus { Params.default with layout := .msbFirst } 0x0500640000100000 = some (.opFrameWrite 0x64 0x1000 0) := by
  decide
theorem test_decode_other_opcode : decodeBus Params.default 0x0000000000000007 = none := by decide
theorem test_illegal_zero : decode 0x0000000000000000 = .illegal (.reservedCode 0) := by decide
theorem test_illegal_code : decode 0x000000000000000B = .illegal (.reservedCode 0xB) := by decide
theorem test_illegal_bit40 : decode 0x0000010000000403 = .illegal (.reservedBits 3) := by decide
theorem test_illegal_fbrd_data : decode 0x0000000000100007 = .illegal (.reservedBits 7) := by decide

/-- 95_test_vectors.md section 2.1. -/
theorem test_pack_vectors :
    pack .lsbFirst ⟨0x12, 0x3456, 0x789ABCDE, 0xF0⟩ = 0xF0789ABCDE345612 ∧
    pack .msbFirst ⟨0x12, 0x3456, 0x789ABCDE, 0xF0⟩ = 0x123456789ABCDEF0 ∧
    unpack .lsbFirst 0x0123456789ABCDEF = ⟨0xEF, 0xABCD, 0x23456789, 0x01⟩ ∧
    unpack .msbFirst 0x0123456789ABCDEF = ⟨0x01, 0x2345, 0x6789ABCD, 0xEF⟩ := by decide

/-- The rows that share a code point, told apart by how many bits a row fixes (log entry 11). -/
theorem test_decodeTableWord :
    decodeTableWord 64 0x0000000000000001 = some .pwrOn ∧ decodeTableWord 8 0x01 = some (.opDeviceInit 0 0 0) ∧
    decodeTableWord 32 0x00640503 = some (.exec 0x05 100) ∧ decodeTableWord 8 0x05 = some (.opFrameWrite 0 0 0) ∧
    decodeTableWord 64 0x000000000000000A = some (.csrw 0 0) := by decide

/-- The step after reset runs the placed word. -/
theorem test_withFetchWord :
    step (State.reset.withFetchWord 64 0x0000000000000001) = exec .pwrOn State.reset ∧
    step (State.reset.withFetchWord 8 0x04) =
      exec (.opFrameRead 0 0 0) (State.reset.withFetchWord 8 0x04) := ⟨rfl, rfl⟩

/-! ### WellFormed refuses what the engine never sends (30_encoding.md R94) -/

theorem test_wellFormed_ok :
    Instr.wellFormed (.opFrameWrite 0x64 0x1000 0) = true ∧ Instr.wellFormed (.opFrameRead 3 0 0) = true ∧
    Instr.wellFormed (.exec 0xFF 0xFFFF) = true := by decide
theorem test_illFormed_checksum :
    Instr.wellFormed (.opDeviceInit 0 1 0) = false ∧ Instr.wellFormed (.opZeroAll 0 1 0) = false ∧
    Instr.wellFormed (.opPowerOff 0 1 0) = false ∧ Instr.wellFormed (.opFrameRead 0 1 0) = false := by decide
theorem test_illFormed_returnCode :
    Instr.wellFormed (.opDeviceInit 0 0 1) = false ∧ Instr.wellFormed (.opZeroAll 0 0 1) = false ∧
    Instr.wellFormed (.opPowerOff 0 0 1) = false ∧ Instr.wellFormed (.opFrameRead 0 0 1) = false ∧
    Instr.wellFormed (.opFrameWrite 0 0 1) = false := by decide

/-! ### One step of each instruction, results from the rules' examples and 95_test_vectors.md -/

/-- R200, its example. -/
theorem test_pwrOn : seen (fun s => (s.powered, s.ce, s.ffc)) (step (given 0x1 State.reset)) = some (true, [], 0) := by
  decide
/-- R200: no effect while on. -/
theorem test_pwrOn_on : seen State.ffc (step (given 0x1 { on with ffc := 3 })) = some 3 := by decide
/-- R201. -/
theorem test_pwrOff :
    seen (fun s => (s.powered, s.ce, s.ffc)) (step (given 0x2 { on with ffc := 3, ce := [⟨0, 0, []⟩] })) =
      some (false, [], 3) := by decide
theorem test_pwrOff_off : response (step (given 0x2 State.reset)) = some (0x11, 0) := by decide
/-- E11, E12. -/
theorem test_exec_off : response (step (given 0x0000000000000403 State.reset)) = some (0x11, 0) := by decide
theorem test_exec_on :
    seen (fun s => (s.lOpc, s.lFidx, s.att, s.fsm)) (step (given 0x0000000000030403 { on with att := 9 })) =
      some (0x04, 3, 0, .prep) := by decide
/-- K9, and K8. -/
theorem test_clookup :
    seen (fun s => (s.rspStatus, s.rspData, s.fbuf))
      (step (given 0x0000000000650104 { on with ce := [⟨1, 102, [(0, 0x0C)]⟩, ⟨1, 101, [(0, 0x0B)]⟩] })) =
      some (0x2, 1, [(0, 0x0B)]) := by decide
theorem test_clookup_miss :
    seen (fun s => (s.rspStatus, s.rspData, s.fbuf)) (step (given 0x4 { on with fbuf := [(0, 0x0A)] })) =
      some (0x0, 0, [(0, 0x0A)]) := by decide
/-- K3. -/
theorem test_cupsert_evicts :
    seen (fun s => (s.rspData, s.ce)) (step (given 0x0000000000660105
      { on with capacity := 2, fbuf := [(0, 0x0C)], ce := [⟨1, 101, [(0, 0x0B)]⟩, ⟨1, 100, [(0, 0x0A)]⟩] })) =
      some (0x0000000000640104, [⟨1, 102, [(0, 0x0C)]⟩, ⟨1, 101, [(0, 0x0B)]⟩]) := by decide
/-- K5: the old SID is kept. -/
theorem test_cupsert_updates :
    seen (fun s => (s.rspData, s.ce)) (step (given 0x0000000000640205
      { on with fbuf := [(0, 0x0D)], ce := [⟨1, 100, [(0, 0x0A)]⟩] })) =
      some (0x0000000000640102, [⟨1, 100, [(0, 0x0D)]⟩]) := by decide
/-- R190, its example. -/
theorem test_alloc :
    seen (fun s => (s.rspData, s.ffc)) (step (given 0x0000013880000006 on)) = some (0x0000000200000000, 2) := by decide
/-- R193. -/
theorem test_alloc_full :
    seen (fun s => (s.rspStatus, s.ffc)) (exec (.alloc 0 8193) { on with ffc := 7 }) = some (0x21, 7) := by decide
/-- R202, its example, in the off state. -/
theorem test_fbrd :
    response (step (given 0x00000000000FFF07 { State.reset with fbuf := [(4095, 0xAB)] })) = some (0, 0xAB) := by decide
/-- R203, its example: the cells stay in order. -/
theorem test_fbwr :
    seen State.fbuf (step (given 0x000000000ABFFF08 { State.reset with fbuf := [(0, 1), (4095, 2)] })) =
      some [(0, 1), (4095, 0xAB)] := by decide
/-- R204, its example. -/
theorem test_csrr : response (step (given 0x0000000000000109 State.reset)) = some (0, 0x0000000100000000) := by decide
theorem test_csrr_reserved : response (step (given 0x0000000000000B09 on)) = some (0x41, 0) := by decide
/-- R205, its example. -/
theorem test_csrw : seen State.capacity (step (given 0x000000000002000A State.reset)) = some 2 := by decide
theorem test_csrw_late :
    seen (fun s => (s.rspStatus, s.cfgFault, s.capacity)) (step (given 0x000000000002000A on)) =
      some (0x51, true, 4) := by decide
/-- 41_bus_opcodes.md R140 to R144: the exchange takes over the answer; POWERED stays. -/
theorem test_opDeviceInit :
    seen (fun s => (s.fsm, s.lastRsp, s.lastAttempts)) (step (asking 0x1 goodAnswer)) = some (.check, 0x1, 1) := by decide
theorem test_opZeroAll :
    seen (fun s => (s.fsm, s.lastRsp, s.ce)) (step { asking 0x2 goodAnswer with ce := [⟨0, 2, []⟩] }) =
      some (.check, 0x1, [⟨0, 2, []⟩]) := by decide
theorem test_opPowerOff :
    seen (fun s => (s.fsm, s.powered)) (step (asking 0x3 goodAnswer)) = some (.check, true) := by decide
theorem test_opFrameRead :
    seen (fun s => s.readFbuf 5) (step (asking 0x304 ⟨0x304, frameOf fun k => BitVec.ofNat 8 k⟩)) = some 5 := by
  decide +kernel
theorem test_opFrameWrite :
    seen (fun s => (s.fsm, s.att)) (step { asking 0x205 badAnswer with att := 0xFFFFFFFF }) =
      some (.check, 0xFFFFFFFF) := by decide
/-- CHECK retries, responds or gives up (E6). -/
theorem test_check_retry : seen State.fsm (step (checking 0x0200000000000005)) = some .prep := by decide
theorem test_check_exhausted :
    response (step { checking 0x0100000000000805 with retryUnbounded := false }) =
      some (0x31, 0x0100000000000805) := by decide
/-- 95_test_vectors.md section 2.2. -/
theorem test_csum_ff : csumSum (frameOf fun _ => 0xFF) = 0x000FF000 := by decide +kernel
theorem test_csum_mod256 : csumSum (frameOf fun k => BitVec.ofNat 8 k) = 0x0007F800 := by decide +kernel
/-- R300: reset is in canonical form. -/
theorem test_reset_wf : State.reset.fbuf.wf = true ∧ State.reset.save.wf = true := by decide
/-- R301: reset discards the outstanding answer. -/
theorem test_reset_in_exchange :
    seen (fun s => (s.fsm, s.bus.listed, s.resets)) (step { asking 0x1 goodAnswer with resetPin := true }) =
      some (.idle, [], 1) := by decide

/-! ### The assembler and the fixtures -/

theorem test_assemble :
    assembleLine Params.default "EXEC OP_FRAME_WRITE, 100 ; store" = some [0x0000000000640503] ∧
    assembleLine Params.default "CSRR RETRY" = some [0x0000000000000109] ∧
    assembleLine Params.default "SETCAP 2" = some [0x000000000002000A] ∧
    assembleLine Params.default "FBWR 4096, 1" = none := by decide +kernel
theorem test_assemble_fbfill :
    assembleLine Params.default "FBFILL 0, 1, 0x11" = some [0x0000000001100008, 0x0000000001100108] := by
  decide +kernel
/-- E4: a frame-read past the device. -/
theorem test_refBus_range :
    (refBusAnswer Params.default [] 0x0000000000000804 zeroFrame).1.word = 0x0100000000000804 := by decide +kernel

/-- R149: of RB_DEAD only the answers differ, so OP_ZERO_ALL still empties DEV. -/
theorem test_refBus_dead_zeroes :
    (refBusNext Params.default { kind := .dead, dev := [(2, zeroFrame)] } 0x0000000000000002 zeroFrame).2 =
      { kind := .dead, dev := [] } := rfl
/-- R230: the defaults. -/
theorem test_driver_defaults :
    ({ maxFiles := 1, maxHandles := 1 } : DriverParams).nameMatch = .prefixes ∧
    ({ maxFiles := 1, maxHandles := 1 } : DriverParams).sizeMode = .grow := by decide
/-- R236: `dst[done + j]` only; a caller's buffer keeps its other bytes. -/
theorem test_putByte : putByte [1, 2, 3] 1 9 = [1, 9, 3] ∧ putByte [] 0 9 = [9] := by decide

/-! ### For each statement with hypotheses, a state and operands that meet them -/

/-- In IDLE, an illegal word waits. -/
def illegalWaiting : State := given 0 on

theorem witness_DecodeEncodeEveryCommand :
    (Instr.csrw 0xFF 0xFFFFFFFFFFFF).isCommand = true ∧ Instr.pwrOn.isCommand = true := by decide
theorem witness_DecodeEncodeEveryBusRequest :
    Params.default.opcodes.Distinct ∧ (Instr.opFrameWrite 0xFFFF 0xFFFFFFFF 0xFF).isCommand = false := by decide
theorem witness_EncodeDecodedWordIsTheWord :
    decode 0x0000000000640503 = .instr (.exec 0x05 100) ∧
    decodeBus Params.default 0x0000000000000304 = some (.opFrameRead 3 0 0) := by decide
theorem witness_DecodeFollowsTheCommandTable :
    (0x0FFFFFFFFFFFFF06 : Word) &&& 0xF0000000000000FF = 0x6 ∧
    (0x00000000FFFFFF03 : Word) &&& 0xFFFFFFFF000000FF = 0x3 := by decide
theorem witness_IllegalWordsFailBadCommand_word :
    illegalWaiting.resetPin = false ∧ illegalWaiting.fsm = .idle ∧ illegalWaiting.port = [0] ∧
    decode 0 = .illegal (.reservedCode 0) := by decide
theorem witness_IllegalWordsFailBadCommand_number :
    0x0A < (0x0B#8).toNat ∧ 0x0A < (0xFF#8).toNat ∧ 1 < (0x02#8).toNat := by decide
theorem witness_IllegalWordsFailBadCommand_value :
    2 ^ 16 ≤ (0x10000#48).toNat ∧ 2 ^ 33 ≤ (0x200000000#48).toNat ∧ State.reset.powered = false ∧
    State.reset.params.capMax.toNat < (5#48).toNat := by decide
theorem witness_WorkedEncodingsDecode :
    let s : State := { on with fbuf := Memory.ofFrame (frameOf fun _ => 0x01) }
    s.params.layout = .lsbFirst ∧ s.params.opcodes = OpcodeMap.default ∧
    csum s.params.csum s.fbufFrame = 0x00001000 := by
  refine ⟨rfl, rfl, ?_⟩
  simp only [State.fbufFrame, toFrame_ofFrame]
  decide +kernel
theorem witness_StepRunsTheFetchedInstruction_command :
    (given 0x1 on).resetPin = false ∧ (given 0x1 on).fsm = .idle ∧ (given 0x1 on).port = [0x1] ∧
    decode 0x1 = .instr .pwrOn := by decide
theorem witness_StepRunsTheFetchedInstruction_request :
    (asking 0x304 goodAnswer).resetPin = false ∧ (asking 0x304 goodAnswer).fsm = .xchg ∧
    decodeBus (asking 0x304 goodAnswer).params (asking 0x304 goodAnswer).req = some (.opFrameRead 3 0 0) := by decide
theorem witness_EngineFollowsTheTransitionTable_idle :
    decode 0x0000000000640503 = .instr (.exec 0x05 100) ∧ (given 0x0000000000640503 on).powered = true ∧
    (given 0x0000000000640503 State.reset).powered = false ∧ (given 0x0000000000640503 on).fsm = .idle ∧
    cmdField 0x0000010000000403 = 0x3 ∧ decode 0x0000010000000403 = .illegal (.reservedBits 3) ∧
    decode 0x1 = .instr .pwrOn := by decide
theorem witness_EngineFollowsTheTransitionTable_prep :
    ({ on with fsm := .prep } : State).fsm = .prep ∧ ({ on with fsm := .prep } : State).resetPin = false := by decide
/-- Also for FbufHoldsTheReturnedFrame, PromisesForEveryOpcode. -/
theorem witness_EngineFollowsTheTransitionTable_answer :
    (asking 0x1 goodAnswer).resetPin = false ∧ (asking 0x1 goodAnswer).fsm = .xchg ∧
    busNext (asking 0x1 goodAnswer).bus (asking 0x1 goodAnswer).req (payload (asking 0x1 goodAnswer)) =
      some (goodAnswer, ⟨[], .silent⟩) := ⟨rfl, rfl, rfl⟩
/-- Also for StuckEngineStaysStuck. -/
theorem witness_EngineFollowsTheTransitionTable_silence :
    ({ on with fsm := .xchg, bus := ⟨[], .silent⟩ } : State).stuck = true ∧
    ({ on with fsm := .xchg, bus := ⟨[], .silent⟩ } : State).resetPin = false := by decide
/-- Also for SuccessIsJudgedByTheReturnedOpcode, SuccessCornerCases. -/
theorem witness_EngineFollowsTheTransitionTable_success :
    (checking 0x1).resetPin = false ∧ (checking 0x1).fsm = .check ∧
    success (checking 0x1).params (checking 0x1).lastRsp (checking 0x1).fbufFrame = true := by decide
theorem witness_EngineFollowsTheTransitionTable_retry :
    success (checking 0x0200000000000005).params (checking 0x0200000000000005).lastRsp
      (checking 0x0200000000000005).fbufFrame = false ∧
    (checking 0x0200000000000005).retryUnbounded = true := by decide
theorem witness_EngineFollowsTheTransitionTable_exhausted :
    let s : State := { checking 0x0200000000000005 with retryUnbounded := false, retryLimit := 0 }
    s.fsm = .check ∧ success s.params s.lastRsp s.fbufFrame = false ∧ s.retryLimit.toNat < s.att.toNat := by decide
/-- Both power states: for PwrOnEmptiesCacheAndCounter, PwrOffReleasesEveryEntry, ExecLatchesAndStarts. -/
theorem witness_PwrOnEmptiesCacheAndCounter : on.powered = true ∧ State.reset.powered = false := by decide
theorem witness_PowerGatesFiveCommands :
    State.reset.powered = false ∧ (given 0 State.reset).port = [0] ∧ decode 0 = .illegal (.reservedCode 0) := by decide
theorem witness_FrameBufferBytesReadAndWrite :
    ∃ t, exec (.fbwr 4095 0xAB) on = .next t ∧ (0 : BitVec 12) ≠ 4095 := ⟨_, rfl, by decide⟩
theorem witness_CsrrReadsEveryRegister : on.ce.length < 65536 := by decide
theorem witness_CsrwWritesCapacityAndRetry :
    State.reset.powered = false ∧ 1 ≤ (4#48).toNat ∧ (4#48).toNat ≤ State.reset.params.capMax.toNat ∧
    on.powered = true ∧ (0xFFFF#48).toNat < 2 ^ 16 ∧ (0x1FFFFFFFF#48).toNat < 2 ^ 33 := by decide
theorem witness_ReadsAreIdempotent :
    (∃ t, exec (.fbrd 4095) on = .next t) ∧ (∃ t, exec (.csrr 0x0A) on = .next t) ∧
    ∃ t, exec (.clookup 1 101) on = .next t := ⟨⟨_, rfl⟩, ⟨_, rfl⟩, ⟨_, rfl⟩⟩

/-- Two entries, the second of which matches FIDX 101. -/
def twoEntries : List CacheEntry := [⟨1, 102, [(0, 0x0C)]⟩, ⟨1, 101, [(0, 0x0B)]⟩]

theorem witness_ClookupCopiesWithoutPromotion_hit :
    twoEntries[1]? = some ⟨1, 101, [(0, 0x0B)]⟩ ∧ keyMatch .frameOnly 1 101 ⟨1, 101, [(0, 0x0B)]⟩ = true ∧
    keyMatch .frameOnly 1 101 ⟨1, 102, [(0, 0x0C)]⟩ = false ∧ on.powered = true := by decide
theorem witness_ClookupCopiesWithoutPromotion_miss :
    ∀ e ∈ twoEntries, keyMatch .full 2 101 e = false := by decide
theorem witness_CupsertTakesOneOfFourSteps_update :
    on.powered = true ∧ twoEntries[1]? = some ⟨1, 101, [(0, 0x0B)]⟩ ∧
    keyMatch .frameOnly 2 101 ⟨1, 101, [(0, 0x0B)]⟩ = true ∧
    keyMatch .frameOnly 2 101 ⟨1, 102, [(0, 0x0C)]⟩ = false := by decide
theorem witness_CupsertTakesOneOfFourSteps :
    on.ce = [] ∧ twoEntries ≠ [] ∧ (∀ e ∈ twoEntries, keyMatch .frameOnly 1 100 e = false) ∧
    twoEntries.length < on.capacity.toNat ∧
    twoEntries = [⟨1, 102, [(0, 0x0C)]⟩] ++ [⟨1, 101, [(0, 0x0B)]⟩] ∧
    twoEntries.length = ({ on with capacity := 2 } : State).capacity.toNat := by decide
theorem witness_LookupAfterUpsertReturnsTheContent :
    on.powered = true ∧ on.params.keyMode = .frameOnly := by decide
theorem witness_LookupsNeverChangeEviction : ∃ t, exec (.clookup 1 101) { on with ce := twoEntries } = .next t := ⟨_, rfl⟩
theorem witness_CacheScenarioOfTheSource :
    ({ on with capacity := 2 } : State).powered = true ∧ ({ on with capacity := 2 } : State).ce = [] := by decide

/-- On, with a full cache, and CUPSERT 1, 100 at the port. -/
def full : State := given 0x0000000000640105 { on with capacity := 2, ce := twoEntries }

theorem witness_EveryStepKeepsTheCacheInvariants :
    full.params.Legal ∧ CacheInv full ∧ ∃ t, step full = .next t := by
  refine ⟨by decide, ⟨⟨by decide, by decide⟩, ?_, ?_, fun h => Bool.noConfusion h⟩, _, rfl⟩
  · show twoEntries.length ≤ 2; decide
  · show twoEntries.Pairwise fun e e' => keyMatch .frameOnly e.sid e.fidx e' = false; decide
theorem witness_EveryStepKeepsTheInvariant : full.params.Legal ∧ Inv full ∧ ∃ t, step full = .next t := by
  refine ⟨by decide, ⟨witness_EveryStepKeepsTheCacheInvariants.2.1, Nat.zero_le _, .inl ⟨false, by decide⟩,
    ⟨rfl, rfl, ?_⟩, fun h => Fsm.noConfusion h, fun h => Bool.noConfusion h, fun h => Fsm.noConfusion h⟩, _, rfl⟩
  show ∀ e ∈ twoEntries, Memory.wf e.data = true
  decide
theorem witness_AllocAssignsAllOrNone :
    let k := ((0x8000#32).toNat + 4095) / 4096 - (0#20).toNat
    on.powered = true ∧ k = 8 ∧ on.ffc.toNat + k ≤ on.params.deviceFrames.toNat ∧
    ({ on with ffc := 1 } : State).params.deviceFrames.toNat < ({ on with ffc := 1 } : State).ffc.toNat + k := by decide
theorem witness_AllocCountIsTheLoopCount :
    ∃ j, j < framesNeeded 0 8193 ∧ on.params.deviceFrames.toNat < ({ on with ffc := 7 } : State).ffc.toNat + j + 1 :=
  ⟨1, by decide +kernel⟩
theorem witness_CounterNeverFallsWhilePowered :
    seen (fun t => (t.powered, t.ffc)) (step (given 0x0000013880000006 on)) = some (true, 2) ∧
    seen (fun t => (t.rspStatus, (t.rspData >>> 32).toNat)) (exec (.alloc 0 5000) on) = some (0, 2) := by decide
theorem witness_BusRequestsTakeTheAnswer :
    busNext (asking 0 goodAnswer).bus (encode on.params (.opFrameRead 3 0 0)) (payload (asking 0 goodAnswer)) =
      some (goodAnswer, ⟨[], .silent⟩) ∧
    busNext ⟨[], .silent⟩ (encode on.params (.opZeroAll 0xFFFF 0 0)) (payload on) = none := ⟨rfl, rfl⟩
theorem witness_SuccessIsJudgedByTheReturnedOpcode :
    (unpack Params.default.layout 0x304).opcode = Params.default.opcodes.frameRead ∧
    (unpack Params.default.layout 0x1).opcode ≠ Params.default.opcodes.frameRead := by decide
theorem witness_SuccessCornerCases :
    (⟨0x04, 3, 0, 7⟩ : BusReg).opcode = Params.default.opcodes.frameRead ∧
    (⟨0x05, 3, 0, 2⟩ : BusReg).opcode ≠ Params.default.opcodes.frameRead ∧
    (⟨0x05, 3, 0, 2⟩ : BusReg).returnCode ≠ 0 := by decide
theorem witness_FbufHoldsTheReturnedFrame : ∃ t, step (asking 0x1 goodAnswer) = .next t ∧ ∃ u, step t = .next u :=
  ⟨_, rfl, _, rfl⟩
theorem witness_LatchedOperandsAreSentOnEveryAttempt :
    (checking 0x1).fsm ≠ .idle ∧ ∃ t, step { on with fsm := .prep } = .next t := ⟨by decide, _, rfl⟩
theorem witness_PromisesForEveryOpcode :
    ∃ t t', step (checking 0x1) = .next t ∧ step { checking 0x1 with lOpc := 9 } = .next t' := ⟨_, _, rfl, rfl⟩
theorem witness_RetrySendsThePayloadOfItsMode :
    (asking 0x205 badAnswer).fsm = .xchg ∧
    success (asking 0x205 badAnswer).params badAnswer.word badAnswer.frame = false ∧
    (asking 0x205 badAnswer).retryUnbounded = true ∧
    ({ asking 0x205 badAnswer with retryUnbounded := false, retryLimit := 1 } : State).att.toNat <
      ({ asking 0x205 badAnswer with retryUnbounded := false, retryLimit := 1 } : State).retryLimit.toNat := by decide
/-- Also for EngineDoesNotSeeTheCache. -/
theorem witness_EngineStepsLeaveTheRestAlone :
    (checking 0x1).fsm ≠ .idle ∧ (checking 0x1).resetPin = false ∧ ∃ t, step (checking 0x1) = .next t :=
  ⟨by decide, by decide, _, rfl⟩
theorem witness_EveryStepKeepsTheAttemptBound :
    AttemptsBounded { asking 0x205 badAnswer with retryUnbounded := false, retryLimit := 1, att := 1 } ∧
    ∃ t, step { asking 0x205 badAnswer with retryUnbounded := false, retryLimit := 1, att := 1 } = .next t :=
  ⟨fun _ => ⟨fun _ => by decide, fun h => by cases h⟩, _, rfl⟩

/-- EXEC OP_FRAME_READ, 3 waits; the bus answers once with a wrong checksum, then with the right one. -/
def converging : State :=
  { given 0x0000000000030403 on with bus := ⟨[⟨0x0000000001000304, zeroFrame⟩, ⟨0x0000000000000304, zeroFrame⟩], .silent⟩ }

theorem zeroFrame_csum : csum .sum zeroFrame = 0 := by decide +kernel

theorem witness_ChecksumRetryConverges :
    converging.fsm = .idle ∧ converging.powered = true ∧ converging.resetPin = false ∧
    decode 0x0000000000030403 = .instr (.exec converging.params.opcodes.frameRead 3) ∧
    converging.bus.listed = [⟨0x0000000001000304, zeroFrame⟩] ++ ⟨0x0000000000000304, zeroFrame⟩ :: [] ∧
    (unpack .lsbFirst 0x0000000001000304).opcode = converging.params.opcodes.frameRead ∧
    csum .sum zeroFrame ≠ (unpack .lsbFirst 0x0000000001000304).checksum ∧
    (unpack .lsbFirst 0x0000000000000304).opcode = converging.params.opcodes.frameRead ∧
    csum .sum zeroFrame = (unpack .lsbFirst 0x0000000000000304).checksum ∧ converging.retryUnbounded = true := by
  rw [zeroFrame_csum]
  exact ⟨rfl, rfl, rfl, rfl, rfl, rfl, by decide, rfl, rfl, rfl⟩
theorem witness_UnboundedExecHangsOnAFailingBus :
    let s : State := { on with fsm := .prep, bus := ⟨[badAnswer], .repeating badAnswer⟩ }
    s.resetPin = false ∧ s.fsm = .prep ∧ s.retryUnbounded = true ∧ s.bus.later = .repeating badAnswer ∧
    success s.params badAnswer.word badAnswer.frame = false ∧
    ∀ x ∈ s.bus.listed, success s.params x.word x.frame = false := by
  refine ⟨rfl, rfl, rfl, rfl, by decide, fun x hx => ?_⟩
  obtain rfl := List.mem_singleton.mp hx
  decide
theorem witness_BoundedExecEnds :
    let s : State := { on with fsm := .prep, retryUnbounded := false, retryLimit := 1, bus := ⟨[badAnswer, badAnswer], .silent⟩ }
    s.resetPin = false ∧ s.fsm = .prep ∧ s.att = 0 ∧ s.retryUnbounded = false ∧ s.retryLimit.toNat < 0xFFFFFFFF ∧
    s.retryLimit.toNat + 1 ≤ s.bus.listed.length := by decide
theorem witness_BoundedExecEnds_corner :
    let s : State := { checking 0x0200000000000005 with retryUnbounded := false, retryLimit := 0xFFFFFFFF }
    s.fsm = .check ∧ s.retryLimit = 0xFFFFFFFF ∧ success s.params s.lastRsp s.fbufFrame = false := by decide
theorem witness_CommandsWriteOnlyTheirState :
    Instr.pwrOn.isCommand = true ∧ ∃ t, exec .pwrOn State.reset = .next t := ⟨rfl, _, rfl⟩
/-- EXEC's accepting transition, and the storing forms. -/
theorem witness_CommandsWriteOnlyTheirState_others :
    (∃ t, exec (.exec 0x05 100) on = .next t) ∧ (∃ t, exec (.fbwr 4095 0xAB) on = .next t) ∧
    (∃ t, exec (.clookup 1 101) { on with ce := twoEntries } = .next t) ∧ ∃ t, exec (.csrw 0x00 2) on = .next t :=
  ⟨⟨_, rfl⟩, ⟨_, rfl⟩, ⟨_, rfl⟩, ⟨_, rfl⟩⟩
theorem witness_BusRequestsWriteOnlyTheEngine :
    (Instr.opZeroAll 0 0 0).isCommand = false ∧ ∃ t, exec (.opZeroAll 0 0 0) (asking 0x2 goodAnswer) = .next t :=
  ⟨rfl, _, rfl⟩
theorem witness_FailuresArePrecise :
    ∃ t, exec (.csrw 0x00 2) on = .next t ∧ t.fsm = .idle ∧ failFlag t.rspStatus = true ∧ t.cfgFault ≠ on.cfgFault :=
  ⟨_, rfl, by decide⟩
theorem witness_OneCommandAndOneExchangeAtATime :
    (given 0x1 on).resetPin = false ∧ (given 0x1 on).fsm ≠ .xchg ∧ ∃ t, step (given 0x1 on) = .next t :=
  ⟨by decide, by decide, _, rfl⟩
theorem witness_OneCommandAndOneExchangeAtATime_exchange :
    (asking 0x1 goodAnswer).resetPin = false ∧ (asking 0x1 goodAnswer).fsm = .xchg ∧
    ∃ t, step (asking 0x1 goodAnswer) = .next t := ⟨rfl, rfl, _, rfl⟩
theorem witness_ConfigurationIsFixed :
    (given 0x000000000002000A on).resetPin = false ∧ on.powered = true ∧
    ∃ t, step (given 0x000000000002000A on) = .next t := ⟨rfl, rfl, _, rfl⟩
theorem witness_OnlyPowerCommandsChangePower :
    ∃ t, step (given 0x1 State.reset) = .next t ∧ t.powered ≠ (given 0x1 State.reset).powered := ⟨_, rfl, by decide⟩
theorem witness_CfgFaultIsSticky :
    ∃ t, step (given 0x000000000002000A on) = .next t ∧ t.cfgFault = true ∧ on.cfgFault = false :=
  ⟨_, rfl, by decide⟩
/-- Also for ResetDiscardsTheOutstandingAnswer. -/
theorem witness_ResetSetsEveryRegister :
    ({ asking 0x1 goodAnswer with resetPin := true } : State).resetPin = true ∧
    ({ asking 0x1 goodAnswer with resetPin := true } : State).fsm = .xchg ∧
    ({ asking 0x1 goodAnswer with resetPin := true } : State).bus.listed = [goodAnswer] := ⟨rfl, rfl, rfl⟩
theorem witness_InvariantHoldsAtReset : Params.default.Legal := by decide
theorem witness_ByteOrderIsKept : Memory.wf [(0, 1), (4095, 2)] = true := by decide
/-- Also for CorruptedReadAnswerFails. -/
theorem witness_ReferenceBusReadSucceeds :
    (7 : FrameIndex).toNat < Params.default.deviceFrames.toNat ∧ Params.default.csum = .sum := by decide

theorem witness_PseudoInstructionsExpand : 0 ≤ 4095 ∧ 4095 < 4096 := by decide

/-- A driver with one file of 5000 bytes, open at cursor 0. -/
def oneFile : Driver :=
  { bench := { block := on, fixture := none }, files := [⟨[0x61], 5000, [0, 1]⟩], handles := [⟨some 0, some 0, true⟩],
    cfg := { maxFiles := 1, maxHandles := 1 }, dst := [], patience := 1 }

theorem witness_SeekStaysWithinTheFile :
    oneFile.bench.block.powered = true ∧ oneFile.bench.block.fsm = .idle ∧ oneFile.bench.block.resetPin = false ∧
    1 ≤ oneFile.patience ∧ oneFile.handles[0]? = some ⟨some 0, some 0, true⟩ ∧
    oneFile.files[0]? = some ⟨[0x61], 5000, [0, 1]⟩ ∧ 5000 ≤ 5000 ∧ 5000 < 5001 := by decide

end Sys2Proof.Tests
end

/-! ### The configuration: the parameters and CAPACITY (00_scope.md R8, 10_state.md R26)

The engine's operations never write it, and the one command that does is a legal CSRW of CAPACITY while off. -/

namespace Sys2Proof.Machine

@[simp] theorem exchange_params (w : Word) (s : State) : (exchange w s).params = s.params := by
  obtain ⟨_, hx⟩ | ⟨_, _, _, hx⟩ := exchange_cases w s <;> rw [hx]

@[simp] theorem exchange_capacity (w : Word) (s : State) : (exchange w s).capacity = s.capacity := by
  obtain ⟨_, hx⟩ | ⟨_, _, _, hx⟩ := exchange_cases w s <;> rw [hx]

@[simp] theorem judge_params (s : State) : (judge s).params = s.params := by
  obtain ⟨_, hj⟩ | ⟨_, _, hj⟩ | ⟨_, _, hj⟩ := judge_cases s <;> simp [hj]

@[simp] theorem judge_capacity (s : State) : (judge s).capacity = s.capacity := by
  obtain ⟨_, hj⟩ | ⟨_, _, hj⟩ | ⟨_, _, hj⟩ := judge_cases s <;> simp [hj]

/-- A command writes CAPACITY only by an accepted CSRW while the block is off (44_lifecycle_access.md R205). -/
theorem exec_command_configuration {i : Instr} {s t : State} (hi : i.isCommand = true) (h : exec i s = .next t) :
    t.params = s.params ∧
      (t.capacity = s.capacity ∨ ∃ v, i = .csrw 0x00 v ∧ s.powered = false ∧ t.capacity = capField v) := by
  obtain ⟨opc, fidx, -, -, rfl⟩ | ⟨cause, rfl, -⟩ | ⟨v, -, -, rfl⟩ | ⟨hit, data, s', rfl, hs'⟩ :=
    exec_command_cases hi h
  · exact ⟨rfl, .inl rfl⟩
  · exact ⟨rfl, .inl rfl⟩
  · exact ⟨rfl, .inl rfl⟩
  · obtain rfl | ⟨-, -, rfl⟩ | ⟨-, -, rfl⟩ | ⟨_, _, _, _, -, -, -, rfl⟩ | ⟨_, _, -, -, rfl⟩ | ⟨_, _, -, -, -, rfl⟩ |
      ⟨_, _, -, rfl⟩ | ⟨v, hv, hoff, -, -, rfl⟩ | ⟨_, -, rfl⟩ := hs'
    pick_goal 8 -- the accepted CSRW of CAPACITY
    · exact ⟨rfl, .inr ⟨v, hv, hoff, rfl⟩⟩
    all_goals exact ⟨rfl, .inl rfl⟩

/-- Settles O51, along the ways of a step: block reset keeps the parameters, the engine's transitions keep both, and a
command that writes CAPACITY finds the block off. -/
theorem configurationIsFixed : Obligations.ConfigurationIsFixed := by
  unfold Obligations.ConfigurationIsFixed
  intro s t h
  obtain ⟨hreset, rfl⟩ | ⟨-, ⟨-, -, rfl⟩ | ⟨_, _, _, -, -, -, rfl⟩ | ⟨w, rest, i, -, -, -, hi, he⟩ | ⟨-, rfl⟩ |
    ⟨-, w, rfl⟩ | ⟨-, rfl⟩⟩ := step_cases h
  · exact ⟨blockReset_params s, fun hr => absurd hreset (by simp [hr])⟩
  · exact ⟨rfl, fun _ _ => rfl⟩
  · exact ⟨rfl, fun _ _ => rfl⟩
  · obtain ⟨hparams, hcap | ⟨_, -, hoff, -⟩⟩ := exec_command_configuration hi he
    · exact ⟨hparams, fun _ _ => hcap⟩
    · exact ⟨hparams, fun _ hon => (Bool.false_ne_true (hoff.symm.trans hon)).elim⟩
  · exact ⟨prepare_params s, fun _ _ => prepare_capacity s⟩
  · exact ⟨exchange_params w s, fun _ _ => exchange_capacity w s⟩
  · exact ⟨judge_params s, fun _ _ => judge_capacity s⟩

end Sys2Proof.Machine

/-! ### The state that only commands write (10_state.md R23, R24, R26, R29, R39)

POWERED, CFG_FAULT, CAPACITY, FFC and CE belong to the host: the engine's transitions keep them, and so does every
command but the six writes of `HostWrite`. The statements about these fields follow from `step_hostState`. -/

namespace Sys2Proof.Machine

/-- `t` holds the host's state of `s`. -/
structure KeepsHostState (s t : State) : Prop where
  powered : t.powered = s.powered
  cfgFault : t.cfgFault = s.cfgFault
  capacity : t.capacity = s.capacity
  ffc : t.ffc = s.ffc
  ce : t.ce = s.ce
  params : t.params = s.params

theorem keepsHostState_rfl (s : State) : KeepsHostState s s := ⟨rfl, rfl, rfl, rfl, rfl, rfl⟩

theorem raise_keepsHostState (cause : Cause) (data : Word) (s : State) : KeepsHostState s (raise cause data s) :=
  ⟨rfl, rfl, rfl, rfl, rfl, rfl⟩

theorem respond_keepsHostState (hit : Bool) (data : Word) (s : State) : KeepsHostState s (respond hit data s) :=
  ⟨rfl, rfl, rfl, rfl, rfl, rfl⟩

theorem latch_keepsHostState (opc : BitVec 8) (fidx : FrameIndex) (s : State) : KeepsHostState s (latch opc fidx s) :=
  ⟨rfl, rfl, rfl, rfl, rfl, rfl⟩

theorem prepare_keepsHostState (s : State) : KeepsHostState s (prepare s) := ⟨rfl, rfl, rfl, rfl, rfl, rfl⟩

theorem exchange_keepsHostState (w : Word) (s : State) : KeepsHostState s (exchange w s) := by
  obtain ⟨-, hx⟩ | ⟨_, _, -, hx⟩ := exchange_cases w s
  · rw [hx]; exact keepsHostState_rfl s
  · rw [hx]; exact ⟨rfl, rfl, rfl, rfl, rfl, rfl⟩

theorem judge_keepsHostState (s : State) : KeepsHostState s (judge s) := by
  obtain ⟨-, hj⟩ | ⟨-, -, hj⟩ | ⟨-, -, hj⟩ := judge_cases s
  · rw [hj]; exact respond_keepsHostState ..
  · rw [hj]; exact raise_keepsHostState ..
  · rw [hj]; exact ⟨rfl, rfl, rfl, rfl, rfl, rfl⟩

/-- The six commands that write the host's state, with the state each ends in. -/
inductive HostWrite (s : State) : Instr → State → Prop
  | turnOn (hit : Bool) (data : Word) (off : s.powered = false) :
      HostWrite s .pwrOn (respond hit data { s with powered := true, ce := [], ffc := 0 })
  | turnOff (hit : Bool) (data : Word) (on : s.powered = true) :
      HostWrite s .pwrOff (respond hit data { s with ce := [], powered := false })
  | cache (hit : Bool) (data : Word) (sid : StoreId) (fidx : FrameIndex) (on : s.powered = true) :
      HostWrite s (.cupsert sid fidx) (respond hit data { s with ce := (upsert sid fidx s).1 })
  | counter (hit : Bool) (data : Word) (have_ : BitVec 20) (need : BitVec 32)
      (fits : framesNeeded have_ need = 0 ∨
        s.ffc.toNat + framesNeeded have_ need ≤ s.params.deviceFrames.toNat) :
      HostWrite s (.alloc have_ need)
        (respond hit data { s with ffc := BitVec.ofNat 17 (s.ffc.toNat + framesNeeded have_ need) })
  | capacity (hit : Bool) (data : Word) (v : BitVec 48) (off : s.powered = false) (pos : capField v ≠ 0)
      (le : capField v ≤ s.params.capMax) :
      HostWrite s (.csrw 0x00 v) (respond hit data { s with capacity := capField v })
  | lateCapacity (v : BitVec 48) (on : s.powered = true) :
      HostWrite s (.csrw 0x00 v) (raise .cfgLate 0 { s with cfgFault := true })

/-- EVERYTHING A COMMAND CAN DO to the host's state. -/
theorem exec_command_hostState {i : Instr} {s t : State} (hi : i.isCommand = true) (h : exec i s = .next t) :
    (KeepsHostState s t ∧ (t.fsm = .idle ∨ s.powered = true)) ∨ HostWrite s i t := by
  obtain ⟨opc, fidx, -, on, rfl⟩ | ⟨cause, rfl, -⟩ | ⟨v, rfl, on, rfl⟩ | ⟨hit, data, s', rfl, hs'⟩ :=
    exec_command_cases hi h
  · exact .inl ⟨latch_keepsHostState opc fidx s, .inr on⟩
  · exact .inl ⟨raise_keepsHostState cause 0 s, .inl rfl⟩
  · exact .inr (.lateCapacity v on)
  · obtain rfl | ⟨rfl, off, rfl⟩ | ⟨rfl, on, rfl⟩ | ⟨_, _, _, _, -, -, -, rfl⟩ | ⟨sid, fidx, rfl, on, rfl⟩ |
      ⟨have_, need, rfl, -, fits, rfl⟩ | ⟨_, _, -, rfl⟩ | ⟨v, rfl, off, pos, le, rfl⟩ | ⟨_, -, rfl⟩ := hs'
    · exact .inl ⟨respond_keepsHostState .., .inl rfl⟩
    · exact .inr (.turnOn hit data off)
    · exact .inr (.turnOff hit data on)
    · exact .inl ⟨⟨rfl, rfl, rfl, rfl, rfl, rfl⟩, .inl rfl⟩
    · exact .inr (.cache hit data sid fidx on)
    · exact .inr (.counter hit data have_ need fits)
    · exact .inl ⟨⟨rfl, rfl, rfl, rfl, rfl, rfl⟩, .inl rfl⟩
    · exact .inr (.capacity hit data v off pos le)
    · exact .inl ⟨⟨rfl, rfl, rfl, rfl, rfl, rfl⟩, .inl rfl⟩

/-- EVERYTHING A STEP CAN DO to the host's state: block reset, nothing, or one of the six writes by the command at the
head of the port. A step that keeps it ends in IDLE, or found the engine busy or the block on. -/
theorem step_hostState {s t : State} (h : step s = .next t) :
    (s.resetPin = true ∧ t = blockReset s) ∨
    (KeepsHostState s t ∧ (t.fsm = .idle ∨ s.fsm ≠ .idle ∨ s.powered = true)) ∨
    (∃ w rest i, s.fsm = .idle ∧ s.port = w :: rest ∧ decode w = .instr i ∧
      HostWrite { s with port := rest } i t) := by
  obtain hreset | ⟨-, ⟨hidle, -, rfl⟩ | ⟨_, rest, _, -, -, -, rfl⟩ | ⟨w, rest, i, hidle, hport, hdec, hi, he⟩ |
    ⟨hprep, rfl⟩ | ⟨hxchg, w, rfl⟩ | ⟨hcheck, rfl⟩⟩ := step_cases h
  · exact .inl hreset
  · exact .inr (.inl ⟨keepsHostState_rfl t, .inl hidle⟩)
  · exact .inr (.inl ⟨⟨rfl, rfl, rfl, rfl, rfl, rfl⟩, .inl rfl⟩)
  · obtain ⟨⟨hpow, hfault, hcap, hffc, hce, hparams⟩, hfsm⟩ | hw := exec_command_hostState hi he
    · exact .inr (.inl ⟨⟨hpow, hfault, hcap, hffc, hce, hparams⟩, hfsm.imp_right .inr⟩)
    · exact .inr (.inr ⟨w, rest, i, hidle, hport, hdec, hw⟩)
  · exact .inr (.inl ⟨prepare_keepsHostState s, .inr (.inl (by simp [hprep]))⟩)
  · exact .inr (.inl ⟨exchange_keepsHostState w s, .inr (.inl (by simp [hxchg]))⟩)
  · exact .inr (.inl ⟨judge_keepsHostState s, .inr (.inl (by simp [hcheck]))⟩)

/-! ### POWERED and CFG_FAULT -/

theorem HostWrite.powered_cases {s t : State} {i : Instr} (hw : HostWrite s i t) :
    t.powered = s.powered ∨ (i = .pwrOn ∧ s.powered = false) ∨ (i = .pwrOff ∧ s.powered = true) := by
  cases hw with
  | turnOn _ _ off => exact .inr (.inl ⟨rfl, off⟩)
  | turnOff _ _ on => exact .inr (.inr ⟨rfl, on⟩)
  | cache | counter | capacity | lateCapacity => exact .inl rfl

theorem HostWrite.cfgFault_cases {s t : State} {i : Instr} (hw : HostWrite s i t) :
    t.cfgFault = s.cfgFault ∨ (t.cfgFault = true ∧ s.powered = true ∧ ∃ v, i = .csrw 0x00 v) := by
  cases hw with
  | lateCapacity v on => exact .inr ⟨rfl, on, v, rfl⟩
  | turnOn | turnOff | cache | counter | capacity => exact .inl rfl

/-- Settles O49: of the writes to the host's state, PWR_ON while off and PWR_OFF while on are those of POWERED. -/
theorem onlyPowerCommandsChangePower : Obligations.OnlyPowerCommandsChangePower := by
  unfold Obligations.OnlyPowerCommandsChangePower
  intro s t hr h hne
  obtain ⟨hreset, -⟩ | ⟨hkeep, -⟩ | ⟨w, rest, i, hidle, hport, hdec, hw⟩ := step_hostState h
  · exact absurd hreset (by simp [hr])
  · exact absurd hkeep.powered hne
  · obtain hsame | ⟨rfl, off⟩ | ⟨rfl, on⟩ := hw.powered_cases
    · exact absurd hsame hne
    · exact ⟨hidle, w, rest, hport, .inl ⟨hdec, off⟩⟩
    · exact ⟨hidle, w, rest, hport, .inr ⟨hdec, on⟩⟩

/-- Settles O50: of the writes to the host's state, the late CSRW of CAPACITY is the one of CFG_FAULT, and it sets the
bit. -/
theorem cfgFaultIsSticky : Obligations.CfgFaultIsSticky := by
  unfold Obligations.CfgFaultIsSticky
  intro s t hr h
  obtain ⟨hreset, -⟩ | ⟨hkeep, -⟩ | ⟨w, rest, i, hidle, hport, hdec, hw⟩ := step_hostState h
  · exact absurd hreset (by simp [hr])
  · exact ⟨hkeep.cfgFault.trans, fun hclear hset => by simp [hkeep.cfgFault, hclear] at hset⟩
  · obtain hsame | ⟨hset, on, v, rfl⟩ := hw.cfgFault_cases
    · exact ⟨hsame.trans, fun hclear hset => by simp [hsame, hclear] at hset⟩
    · exact ⟨fun _ => hset, fun _ _ => ⟨on, hidle, w, rest, v, hport, hdec⟩⟩

/-! ### The frame counter (10_state.md R29, R44; 43_frame_allocator.md R190) -/

/-- FFC's 17 bits hold the sum of an ALLOC that fits. -/
theorem ffc_add_toNat {ffc frames : BitVec 17} {k : Nat} (fits : k = 0 ∨ ffc.toNat + k ≤ frames.toNat) :
    (BitVec.ofNat 17 (ffc.toNat + k)).toNat = ffc.toNat + k := by
  have := ffc.isLt
  have := frames.isLt
  rw [BitVec.toNat_ofNat]
  exact Nat.mod_eq_of_lt (by omega)

theorem HostWrite.ffc_le {s t : State} {i : Instr} (hw : HostWrite s i t) (on : s.powered = true) :
    s.ffc.toNat ≤ t.ffc.toNat := by
  cases hw with
  | turnOn _ _ off => exact absurd on (by simp [off])
  | counter _ _ have_ need fits =>
    simp only [respond_ffc, ffc_add_toNat fits]
    exact Nat.le_add_right _ _
  | turnOff | cache | capacity | lateCapacity => exact le_rfl

theorem HostWrite.ffcBounded {s t : State} {i : Instr} (hw : HostWrite s i t) (hb : FfcBounded s) : FfcBounded t := by
  cases hw with
  | turnOn => exact Nat.zero_le _
  | counter _ _ have_ need fits =>
    unfold FfcBounded at hb ⊢
    simp only [respond_ffc, respond_params, ffc_add_toNat fits]
    omega
  | turnOff | cache | capacity | lateCapacity => exact hb

theorem step_keeps_ffcBounded {s t : State} (hb : FfcBounded s) (h : step s = .next t) : FfcBounded t := by
  obtain ⟨-, rfl⟩ | ⟨hkeep, -⟩ | ⟨_, rest, _, -, -, -, hw⟩ := step_hostState h
  · exact Nat.zero_le _
  · unfold FfcBounded
    rw [hkeep.ffc, hkeep.params]
    exact hb
  · exact hw.ffcBounded hb

theorem framesNeeded_lt (have_ : BitVec 20) (need : BitVec 32) : framesNeeded have_ need < 2 ^ 32 := by
  have := need.isLt
  unfold framesNeeded
  omega

/-- The two halves of ALLOC's RSP_DATA do not overlap (43_frame_allocator.md R190). -/
theorem allocData_toNat {k : Nat} (hk : k < 2 ^ 32) (base : BitVec 17) :
    (allocData k base).toNat = k * 2 ^ 32 + base.toNat := by
  have hbase := base.isLt
  have hhigh : (BitVec.ofNat 64 k <<< 32).toNat = k <<< 32 := by
    simp only [BitVec.toNat_shiftLeft, BitVec.toNat_ofNat, Nat.shiftLeft_eq]
    omega
  have hlow : (base.setWidth 64).toNat = base.toNat := by
    rw [BitVec.toNat_setWidth]
    omega
  rw [allocData, BitVec.toNat_or, hhigh, hlow, ← Nat.shiftLeft_add_eq_or_of_lt (by omega), Nat.shiftLeft_eq]

theorem allocData_count {k : Nat} (hk : k < 2 ^ 32) (base : BitVec 17) : (allocData k base >>> 32).toNat = k := by
  have hbase := base.isLt
  rw [BitVec.toNat_ushiftRight, allocData_toNat hk, Nat.shiftRight_eq_div_pow]
  omega

theorem allocData_base {k : Nat} (hk : k < 2 ^ 32) (base : BitVec 17) :
    ((allocData k base).setWidth 32).toNat = base.toNat := by
  have hbase := base.isLt
  rw [BitVec.toNat_setWidth, allocData_toNat hk]
  omega

/-- No failure reads as RSP_STATUS = 0 (10_state.md R38). -/
theorem statusWord_fail_ne_zero (hit : Bool) (cause : Cause) : statusWord true hit cause ≠ 0 := by
  cases hit <;> cases cause <;> decide

/-- An ALLOC that succeeds returns its count and the old FFC, and moves FFC by the count (43_frame_allocator.md R190). -/
theorem exec_alloc_success {s t : State} {have_ : BitVec 20} {need : BitVec 32}
    (h : exec (.alloc have_ need) s = .next t) (hok : t.rspStatus = 0) :
    t.rspData = allocData (framesNeeded have_ need) s.ffc ∧
      t.ffc.toNat = s.ffc.toNat + framesNeeded have_ need := by
  simp only [exec, execAlloc] at h
  split at h
  · split at h
    · cases h
      exact absurd hok (statusWord_fail_ne_zero _ _)
    · rename_i hfits
      cases h
      exact ⟨rfl, ffc_add_toNat (frames := s.params.deviceFrames) (by omega)⟩
  · cases h
    exact absurd hok (statusWord_fail_ne_zero _ _)

/-- Settles O28: of the writes to the host's state that leave the block on, ALLOC is the one of FFC, and it adds the
count it returns. -/
theorem counterNeverFallsWhilePowered : Obligations.CounterNeverFallsWhilePowered := by
  unfold Obligations.CounterNeverFallsWhilePowered
  constructor
  · intro s t hr hon _ h
    obtain ⟨hreset, -⟩ | ⟨hkeep, -⟩ | ⟨_, rest, _, -, -, -, hw⟩ := step_hostState h
    · exact absurd hreset (by simp [hr])
    · rw [hkeep.ffc]
    · exact hw.ffc_le hon
  · intro s t have_ need h hok j hj
    obtain ⟨hdata, hffc⟩ := exec_alloc_success h hok
    have hk := framesNeeded_lt have_ need
    rw [hdata, allocData_count hk] at hj
    rw [hdata, allocData_base hk, hffc]
    omega

end Sys2Proof.Machine

/-! ### The cache (10_state.md R26, R40, R41; 42_frame_cache.md R161 to R163) -/

namespace Sys2Proof.Machine

/-- CLOOKUP writes FBUF and the response, and goes back to IDLE (42_frame_cache.md R162). -/
theorem exec_clookup_frame {s t : State} {sid : StoreId} {fidx : FrameIndex} (h : exec (.clookup sid fidx) s = .next t) :
    ∃ m status data, t = { s with fbuf := m, fsm := .idle, rspStatus := status, rspData := data } := by
  simp only [exec, execClookup] at h
  split at h
  · split at h
    · cases h; exact ⟨_, _, _, rfl⟩
    · cases h; exact ⟨_, _, _, rfl⟩
  · cases h; exact ⟨_, _, _, rfl⟩

/-- CUPSERT looks at CE, CAPACITY, KEY_MODE and FBUF only. -/
theorem upsert_congr {s t : State} (sid : StoreId) (fidx : FrameIndex) (hce : t.ce = s.ce)
    (hcap : t.capacity = s.capacity) (hparams : t.params = s.params) (hfbuf : t.fbuf = s.fbuf) :
    upsert sid fidx t = upsert sid fidx s := by
  cases s
  cases t
  subst hce hcap hparams hfbuf
  rfl

/-- Settles O23: what a CLOOKUP writes is nothing a CUPSERT of a given content looks at. -/
theorem lookupsNeverChangeEviction : Obligations.LookupsNeverChangeEviction := by
  unfold Obligations.LookupsNeverChangeEviction
  intro s t sid sid' fidx fidx' m h
  obtain ⟨_, _, _, rfl⟩ := exec_clookup_frame h
  exact ⟨rfl, upsert_congr sid' fidx' rfl rfl rfl rfl⟩

theorem upsert_length_le {s : State} (sid : StoreId) (fidx : FrameIndex) (hcap : CapacityLegal s)
    (hb : CacheBounded s) : (upsert sid fidx s).1.length ≤ s.capacity.toNat := by
  unfold CacheBounded at hb
  obtain ⟨-, hu⟩ | ⟨i, e, hf, hu⟩ | ⟨-, -, hlt, hu⟩ | ⟨hne, -, -, hu⟩ := upsert_cases sid fidx s
  · rw [hu]
    exact hcap.1
  · have hi : i < s.ce.length := (List.getElem?_eq_some_iff.mp (cacheFind_some hf).1).1
    rw [hu, List.length_cons, List.length_eraseIdx_of_lt hi]
    omega
  · rw [hu]
    exact hlt
  · have := List.length_pos_iff.mpr hne
    rw [hu, List.length_cons, List.length_dropLast]
    omega

/-- An entry of CE after CUPSERT was there before, or holds the content of FBUF (42_frame_cache.md R163). -/
theorem mem_upsert {s : State} {sid : StoreId} {fidx : FrameIndex} {e : CacheEntry}
    (he : e ∈ (upsert sid fidx s).1) : e ∈ s.ce ∨ e.data = s.fbuf := by
  obtain ⟨-, hu⟩ | ⟨i, e', -, hu⟩ | ⟨-, -, -, hu⟩ | ⟨_, -, -, hu⟩ := upsert_cases sid fidx s <;>
    rw [hu, List.mem_cons] at he <;>
    refine he.elim (fun hnew => .inr (hnew ▸ rfl)) fun hold => ?_
  · exact absurd hold List.not_mem_nil
  · exact .inl (List.mem_of_mem_eraseIdx hold)
  · exact .inl hold
  · exact .inl (List.mem_of_mem_dropLast hold)

/-- `Match` of two entries' keys does not depend on their order (42_frame_cache.md R161). -/
theorem keyMatch_comm (mode : KeyMode) (e e' : CacheEntry) :
    keyMatch mode e.sid e.fidx e' = keyMatch mode e'.sid e'.fidx e := by
  cases mode <;> simp only [keyMatch, BEq.comm]

/-- Moving an entry to the front keeps the keys distinct, since `Match` is symmetric. -/
theorem keysDistinct_promote {mode : KeyMode} {l : List CacheEntry} {i : Nat} {e : CacheEntry} (hi : l[i]? = some e)
    (hd : l.Pairwise fun a b => keyMatch mode a.sid a.fidx b = false) :
    (e :: l.eraseIdx i).Pairwise fun a b => keyMatch mode a.sid a.fidx b = false := by
  obtain ⟨hlt, rfl⟩ := List.getElem?_eq_some_iff.mp hi
  refine ((List.getElem_cons_eraseIdx_perm hlt).pairwise_iff ?_).mpr hd
  intro a b hab
  rw [keyMatch_comm, hab]

theorem upsert_keysDistinct {s : State} (sid : StoreId) (fidx : FrameIndex) (hd : CacheKeysDistinct s) :
    CacheKeysDistinct { s with ce := (upsert sid fidx s).1 } := by
  unfold CacheKeysDistinct at hd ⊢
  obtain ⟨-, hu⟩ | ⟨i, e, hf, hu⟩ | ⟨-, hf, -, hu⟩ | ⟨_, hf, -, hu⟩ := upsert_cases sid fidx s <;>
    simp only [hu]
  · exact List.pairwise_singleton _ _
  · have hp := List.pairwise_cons.mp (keysDistinct_promote (cacheFind_some hf).1 hd)
    exact List.pairwise_cons.mpr ⟨hp.1, hp.2⟩
  · exact List.pairwise_cons.mpr ⟨cacheFind_none.mp hf, hd⟩
  · refine List.pairwise_cons.mpr ⟨fun e he => ?_, hd.sublist (List.dropLast_sublist _)⟩
    exact cacheFind_none.mp hf e (List.mem_of_mem_dropLast he)

/-! ### The cache's invariants -/

/-- While a command runs the block is on (44_lifecycle_access.md R206). -/
theorem CacheInv.on_of_busy {s : State} (hi : CacheInv s) (hbusy : s.fsm ≠ .idle) : s.powered = true := by
  obtain ⟨-, -, -, hquiet⟩ := hi
  by_contra hoff
  exact hbusy (hquiet (by simpa using hoff)).2

/-- An idle block with an empty cache needs a legal CAPACITY only. -/
theorem cacheInv_of_empty {t : State} (hcap : CapacityLegal t) (hce : t.ce = []) (hidle : t.fsm = .idle) :
    CacheInv t := by
  refine ⟨hcap, ?_, ?_, fun _ => ⟨hce, hidle⟩⟩
  · simp [CacheBounded, hce]
  · simp [CacheKeysDistinct, hce]

theorem CacheInv.of_keepsHostState {s t : State} (hi : CacheInv s) (hkeep : KeepsHostState s t)
    (hfsm : t.fsm = .idle ∨ s.powered = true) : CacheInv t := by
  obtain ⟨hcap, hbound, hkeys, hquiet⟩ := hi
  obtain ⟨hpow, -, hcapEq, -, hce, hparams⟩ := hkeep
  refine ⟨?_, ?_, ?_, fun hoff => ?_⟩
  · unfold CapacityLegal; rw [hcapEq, hparams]; exact hcap
  · unfold CacheBounded; rw [hcapEq, hce]; exact hbound
  · unfold CacheKeysDistinct; rw [hce, hparams]; exact hkeys
  · rw [hpow] at hoff
    obtain hidle | hon := hfsm
    · exact ⟨hce.trans (hquiet hoff).1, hidle⟩
    · exact absurd hon (by simp [hoff])

/-- CE is empty whenever CAPACITY is written, so the bound cannot be lost by lowering it. -/
theorem HostWrite.cacheInv {s t : State} {i : Instr} (hw : HostWrite s i t) (hi : CacheInv s) : CacheInv t := by
  obtain ⟨hcap, hbound, hkeys, hquiet⟩ := hi
  cases hw with
  | turnOn => exact cacheInv_of_empty hcap rfl rfl
  | turnOff => exact cacheInv_of_empty hcap rfl rfl
  | cache _ _ sid fidx on =>
    exact ⟨hcap, upsert_length_le sid fidx hcap hbound, upsert_keysDistinct sid fidx hkeys,
      fun off => absurd on (by simpa using off)⟩
  | counter => exact ⟨hcap, hbound, hkeys, fun off => ⟨(hquiet off).1, rfl⟩⟩
  | capacity _ _ v off pos le =>
    have hlegal : 1 ≤ (capField v).toNat :=
      Nat.pos_of_ne_zero fun hzero => pos (BitVec.eq_of_toNat_eq hzero)
    exact cacheInv_of_empty ⟨hlegal, le⟩ (hquiet off).1 rfl
  | lateCapacity => exact ⟨hcap, hbound, hkeys, fun off => ⟨(hquiet off).1, rfl⟩⟩

/-- Settles O25, along the ways a step treats the host's state. -/
theorem everyStepKeepsTheCacheInvariants : Obligations.EveryStepKeepsTheCacheInvariants := by
  unfold Obligations.EveryStepKeepsTheCacheInvariants
  intro s t ⟨_, _, hcapMax, _⟩ hi h
  obtain ⟨-, rfl⟩ | ⟨hkeep, hfsm⟩ | ⟨_, rest, _, -, -, -, hw⟩ := step_hostState h
  · exact cacheInv_of_empty ⟨hcapMax, le_rfl⟩ rfl rfl
  · refine hi.of_keepsHostState hkeep ?_
    obtain hidle | hbusy | hon := hfsm
    · exact .inl hidle
    · exact .inr (hi.on_of_busy hbusy)
    · exact .inr hon
  · exact hw.cacheInv hi

end Sys2Proof.Machine

/-! ### The response, the buffers and the engine (10_state.md R38, R42; 40_protocol_engine.md R113, R119, R120) -/

namespace Sys2Proof.Machine

/-! ### The response registers -/

theorem respond_responseLegal (hit : Bool) (data : Word) (s : State) : ResponseLegal (respond hit data s) :=
  .inl ⟨hit, rfl⟩

theorem raise_responseLegal {cause : Cause} (hc : cause ≠ .none) (data : Word) (s : State) :
    ResponseLegal (raise cause data s) :=
  .inr ⟨cause, hc, rfl⟩

/-- A command starts the engine, or ends with a legal response in IDLE. -/
theorem exec_command_starts_or_ends {i : Instr} {s t : State} (hi : i.isCommand = true) (h : exec i s = .next t) :
    (∃ opc fidx, t = latch opc fidx s) ∨ (t.fsm = .idle ∧ ResponseLegal t) := by
  obtain ⟨opc, fidx, -, -, rfl⟩ | ⟨cause, rfl, hc, -⟩ | ⟨_, -, -, rfl⟩ | ⟨hit, data, s', rfl, -⟩ :=
    exec_command_cases hi h
  · exact .inl ⟨opc, fidx, rfl⟩
  · exact .inr ⟨rfl, raise_responseLegal hc 0 s⟩
  · exact .inr ⟨rfl, raise_responseLegal (by decide) 0 _⟩
  · exact .inr ⟨rfl, respond_responseLegal hit data s'⟩

/-- EVERYTHING A STEP CAN DO to the engine: it ends in IDLE with a legal response, or waits there, or starts an EXEC,
or takes one of the transitions of 40_protocol_engine.md R121 that stay in the retry loop. -/
theorem step_engine {s t : State} (h : step s = .next t) :
    (t.fsm = .idle ∧ (t = s ∨ ResponseLegal t)) ∨
    (∃ opc fidx rest, t = latch opc fidx { s with port := rest }) ∨
    (s.fsm = .prep ∧ t = prepare s) ∨
    (s.fsm = .xchg ∧ ∃ w, t = exchange w s) ∨
    (s.fsm = .check ∧ exhausted s = false ∧ t = { s with fsm := .prep }) := by
  obtain ⟨-, rfl⟩ | ⟨-, ⟨hidle, -, rfl⟩ | ⟨_, rest, _, -, -, -, rfl⟩ | ⟨_, rest, _, -, -, -, hi, he⟩ | hprep |
    hxchg | ⟨hcheck, rfl⟩⟩ := step_cases h
  · exact .inl ⟨rfl, .inr (.inl ⟨false, rfl⟩)⟩
  · exact .inl ⟨hidle, .inl rfl⟩
  · exact .inl ⟨rfl, .inr (raise_responseLegal (by decide) 0 _)⟩
  · obtain ⟨opc, fidx, rfl⟩ | ⟨hidle, hresp⟩ := exec_command_starts_or_ends hi he
    · exact .inr (.inl ⟨opc, fidx, rest, rfl⟩)
    · exact .inl ⟨hidle, .inr hresp⟩
  · exact .inr (.inr (.inl hprep))
  · exact .inr (.inr (.inr (.inl hxchg)))
  · obtain ⟨-, hj⟩ | ⟨-, -, hj⟩ | ⟨-, hleft, hj⟩ := judge_cases s <;> rw [hj]
    · exact .inl ⟨rfl, .inr (respond_responseLegal false _ s)⟩
    · exact .inl ⟨rfl, .inr (raise_responseLegal (by decide) _ s)⟩
    · exact .inr (.inr (.inr (.inr ⟨hcheck, hleft, rfl⟩)))

@[simp] theorem exchange_rspStatus (w : Word) (s : State) : (exchange w s).rspStatus = s.rspStatus := by
  obtain ⟨_, hx⟩ | ⟨_, _, _, hx⟩ := exchange_cases w s <;> rw [hx]

theorem step_keeps_responseLegal {s t : State} (hr : ResponseLegal s) (h : step s = .next t) : ResponseLegal t := by
  obtain ⟨-, rfl | hresp⟩ | ⟨_, _, _, rfl⟩ | ⟨-, rfl⟩ | ⟨-, w, rfl⟩ | ⟨-, -, rfl⟩ := step_engine h
  · exact hr
  · exact hresp
  · exact hr
  · exact hr
  · unfold ResponseLegal
    rw [exchange_rspStatus]
    exact hr
  · exact hr

/-! ### The request and the attempts -/

/-- PREP builds the request of R113; an exchange without an answer leaves it and its payload as they are. -/
theorem step_keeps_requestBuilt {s t : State} (hb : RequestBuilt s) (h : step s = .next t) : RequestBuilt t := by
  intro ht
  obtain ⟨hidle, -⟩ | ⟨_, _, _, rfl⟩ | ⟨-, rfl⟩ | ⟨hxchg, w, rfl⟩ | ⟨-, -, rfl⟩ := step_engine h
  · exact absurd hidle (by simp [ht])
  · exact absurd ht (by simp)
  · rfl
  · obtain ⟨-, hx⟩ | ⟨_, _, -, hx⟩ := exchange_cases w s
    · rw [hx]
      exact hb hxchg
    · exact absurd ht (by simp [hx])
  · exact absurd ht (by simp)

/-- An attempt is counted when it is answered, and CHECK goes back to PREP only when it was not past the bound. -/
theorem step_keeps_attemptsBounded {s t : State} (hb : AttemptsBounded s) (h : step s = .next t) :
    AttemptsBounded t := by
  unfold AttemptsBounded at hb ⊢
  obtain ⟨hidle, -⟩ | ⟨_, _, _, rfl⟩ | ⟨hprep, rfl⟩ | ⟨hxchg, w, rfl⟩ | ⟨-, hleft, rfl⟩ := step_engine h
  · simp [hidle]
  · simp
  · simpa [hprep] using hb
  · obtain ⟨-, hx⟩ | ⟨_, _, -, hx⟩ := exchange_cases w s
    · rw [hx]
      exact hb
    · intro hbounded
      rw [hx] at hbounded ⊢
      have hatt := (hb hbounded).1 (.inr hxchg)
      refine ⟨by simp, fun _ => ?_⟩
      simp only [satInc_toNat]
      omega
  · intro hbounded
    refine ⟨fun _ => Nat.le_of_not_lt fun hpast => ?_, by simp⟩
    exact absurd ((exhausted_iff s).mpr ⟨hbounded, hpast⟩) (by simp [hleft])

theorem step_establishes_attemptsReported {s t : State} (h : step s = .next t) : AttemptsReported t := by
  intro ht
  obtain ⟨hidle, -⟩ | ⟨_, _, _, rfl⟩ | ⟨-, rfl⟩ | ⟨hxchg, w, rfl⟩ | ⟨-, -, rfl⟩ := step_engine h
  · exact absurd hidle (by simp [ht])
  · exact absurd ht (by simp)
  · exact absurd ht (by simp)
  · obtain ⟨-, hx⟩ | ⟨_, _, -, hx⟩ := exchange_cases w s
    · exact absurd ht (by simp [hx, hxchg])
    · rw [hx]
  · exact absurd ht (by simp)

/-! ### The buffers -/

theorem latch_buffersWf {s : State} (hb : BuffersWf s) (opc : BitVec 8) (fidx : FrameIndex) :
    BuffersWf (latch opc fidx s) := by
  obtain ⟨hfbuf, hsave, hce⟩ := hb
  refine ⟨hfbuf, ?_, hce⟩
  rw [latch_save]
  split
  · exact hfbuf
  · exact hsave

theorem exchange_buffersWf {s : State} (hb : BuffersWf s) (w : Word) : BuffersWf (exchange w s) := by
  obtain ⟨-, hx⟩ | ⟨a, _, -, hx⟩ := exchange_cases w s <;> rw [hx]
  · exact hb
  · exact ⟨ofFrame_wf a.frame, hb.2⟩

theorem judge_buffersWf {s : State} (hb : BuffersWf s) : BuffersWf (judge s) := by
  obtain ⟨-, hj⟩ | ⟨-, -, hj⟩ | ⟨-, -, hj⟩ := judge_cases s
  all_goals rw [hj]; exact hb

theorem exec_command_buffersWf {i : Instr} {s t : State} (hi : i.isCommand = true) (h : exec i s = .next t)
    (hb : BuffersWf s) : BuffersWf t := by
  have ⟨hfbuf, hsave, hce⟩ := hb
  obtain ⟨opc, fidx, -, -, rfl⟩ | ⟨cause, rfl, -⟩ | ⟨v, -, -, rfl⟩ | ⟨hit, data, s', rfl, hs'⟩ :=
    exec_command_cases hi h
  · exact latch_buffersWf hb opc fidx
  · exact hb
  · exact hb
  · obtain rfl | ⟨-, -, rfl⟩ | ⟨-, -, rfl⟩ | ⟨_, _, _, e, -, -, hfind, rfl⟩ | ⟨_, _, -, -, rfl⟩ |
      ⟨_, _, -, -, -, rfl⟩ | ⟨a, _, -, rfl⟩ | ⟨_, -, -, -, -, rfl⟩ | ⟨_, -, rfl⟩ := hs'
    · exact hb
    · exact ⟨hfbuf, hsave, List.forall_mem_nil _⟩
    · exact ⟨hfbuf, hsave, List.forall_mem_nil _⟩
    · exact ⟨hce e (cacheFind_mem hfind), hsave, hce⟩
    · refine ⟨hfbuf, hsave, fun e he => ?_⟩
      obtain hold | hnew := mem_upsert he
      · exact hce e hold
      · rw [hnew]
        exact hfbuf
    · exact hb
    · exact ⟨write_wf hfbuf a.isLt, hsave, hce⟩
    · exact hb
    · exact hb

theorem step_keeps_buffersWf {s t : State} (hb : BuffersWf s) (h : step s = .next t) : BuffersWf t := by
  obtain ⟨-, rfl⟩ | ⟨-, ⟨-, -, rfl⟩ | ⟨_, rest, _, -, -, -, rfl⟩ | ⟨_, rest, _, -, -, -, hi, he⟩ | ⟨-, rfl⟩ |
    ⟨-, w, rfl⟩ | ⟨-, rfl⟩⟩ := step_cases h
  · exact ⟨nil_wf, nil_wf, List.forall_mem_nil _⟩
  · exact hb
  · exact hb
  · exact exec_command_buffersWf hi he hb
  · exact hb
  · exact exchange_buffersWf hb w
  · exact judge_buffersWf hb

/-- Settles O54, one step lemma for each part of the invariant. -/
theorem everyStepKeepsTheInvariant : Obligations.EveryStepKeepsTheInvariant := by
  unfold Obligations.EveryStepKeepsTheInvariant
  intro s t hlegal ⟨hcache, hffc, hresp, hbuf, hreq, hatt, _⟩ h
  exact ⟨everyStepKeepsTheCacheInvariants s t hlegal hcache h, step_keeps_ffcBounded hffc h,
    step_keeps_responseLegal hresp h, step_keeps_buffersWf hbuf h, step_keeps_requestBuilt hreq h,
    step_keeps_attemptsBounded hatt h, step_establishes_attemptsReported h⟩

end Sys2Proof.Machine

/-! ### The step that runs an instruction (20_memory.md R67, R68; 40_protocol_engine.md R121)

In IDLE the step is the command at the head of the port, in XCHG the exchange of REQ: a request decoded from REQ
encodes to REQ again (40_protocol_engine.md R112), so which of the five it is does not matter to the bus. -/

namespace Sys2Proof.Machine

theorem step_of_fetch_run {s s' : State} {i : Instr} (h : fetch s = .run i s') : step s = exec i s' := by
  simp only [step, h]

theorem fetch_idle {s : State} (hr : s.resetPin = false) (hidle : s.fsm = .idle) : fetch s = acceptCommand s := by
  simp [fetch, hr, hidle]

theorem fetch_xchg {s : State} (hr : s.resetPin = false) (hxchg : s.fsm = .xchg) : fetch s = runRequest s := by
  simp [fetch, hr, hxchg]

theorem acceptCommand_instr {s : State} {w : Word} {rest : List Word} {i : Instr} (hport : s.port = w :: rest)
    (hdec : decode w = .instr i) : acceptCommand s = .run i { s with port := rest } := by
  simp only [acceptCommand, hport, hdec]

theorem runRequest_instr {s : State} {i : Instr} (hdec : decodeBus s.params s.req = some i) :
    runRequest s = .run i s := by
  simp only [runRequest, hdec]

/-- Settles O9, by the fetch of each of the two control states that run an instruction. -/
theorem stepRunsTheFetchedInstruction : Obligations.StepRunsTheFetchedInstruction := by
  unfold Obligations.StepRunsTheFetchedInstruction
  intro s i hr
  constructor
  · intro w rest hidle hport hdec
    exact step_of_fetch_run ((fetch_idle hr hidle).trans (acceptCommand_instr hport hdec))
  · intro hxchg hdec
    exact step_of_fetch_run ((fetch_xchg hr hxchg).trans (runRequest_instr hdec))

/-- A field taken out of a word and put back where it stood: its own bits of the word, and no other. -/
theorem getLsbD_field_in_place (w : Word) {lo n k : Nat} (hk : k < 64) :
    ((w.extractLsb' lo n).setWidth 64 <<< lo).getLsbD k = (decide (lo ≤ k ∧ k < lo + n) && w.getLsbD k) := by
  by_cases hlo : lo ≤ k
  · have hbit : lo + (k - lo) = k := by omega
    have hfield : k - lo < n ↔ k < lo + n := by omega
    simp [hk, hlo, hbit, hfield]
  · simp [hlo]

/-- The four fields of R112 are the whole word: no bit of it is lost (40_protocol_engine.md R111, R112). -/
theorem pack_unpack (l : RegLayout) (w : Word) : pack l (unpack l w) = w := by
  refine BitVec.eq_of_getLsbD_eq fun k hk => ?_
  have hlowest := getLsbD_field_in_place w (lo := 0) (n := 8) hk
  rw [BitVec.shiftLeft_zero] at hlowest
  cases l with
  | lsbFirst | msbFirst =>
    simp only [pack, unpack, BitVec.getLsbD_or, getLsbD_field_in_place w hk, hlowest]
    cases w.getLsbD k with
    | false => simp
    | true => simp; omega

/-- A word whose opcode field is `opc` is the word of the request with that opcode and its other fields. -/
theorem pack_opcode_of_unpack {l : RegLayout} {w : Word} {opc : BitVec 8} (h : (unpack l w).opcode = opc) :
    pack l ⟨opc, (unpack l w).frame, (unpack l w).checksum, (unpack l w).returnCode⟩ = w := by
  subst h
  exact pack_unpack l w

/-- The request a register word decodes to has that word for its encoding (30_encoding.md R92). -/
theorem encode_of_decodeBus {p : Params} {w : Word} {i : Instr} (h : decodeBus p w = some i) : encode p i = w := by
  unfold decodeBus at h
  simp only at h
  split_ifs at h with hinit hzero hoff hread hwrite <;> cases h
  · exact pack_opcode_of_unpack hinit
  · exact pack_opcode_of_unpack hzero
  · exact pack_opcode_of_unpack hoff
  · exact pack_opcode_of_unpack hread
  · exact pack_opcode_of_unpack hwrite

/-- THE STEP IN XCHG is the exchange of REQ, whether or not REQ's opcode has a row (30_encoding.md R93). -/
theorem step_xchg {s : State} (hr : s.resetPin = false) (hxchg : s.fsm = .xchg) :
    step s = .next (exchange s.req s) := by
  have hfetch := fetch_xchg hr hxchg
  obtain ⟨-, hrun⟩ | ⟨i, hdec, hrun, hexec⟩ := runRequest_cases s
  · simp only [step, hfetch, hrun]
  · rw [step_of_fetch_run (hfetch.trans hrun), hexec, encode_of_decodeBus hdec]

/-- A command neither takes a word from the port nor reaches the bus (20_memory.md R67, R68). -/
theorem exec_command_keeps_port_bus {i : Instr} {s t : State} (hi : i.isCommand = true) (h : exec i s = .next t) :
    t.port = s.port ∧ t.bus = s.bus := by
  obtain ⟨_, _, -, -, rfl⟩ | ⟨_, rfl, -⟩ | ⟨_, -, -, rfl⟩ | ⟨_, _, s', rfl, hs'⟩ := exec_command_cases hi h
  · exact ⟨rfl, rfl⟩
  · exact ⟨rfl, rfl⟩
  · exact ⟨rfl, rfl⟩
  · obtain rfl | ⟨-, -, rfl⟩ | ⟨-, -, rfl⟩ | ⟨_, _, _, _, -, -, -, rfl⟩ | ⟨_, _, -, -, rfl⟩ | ⟨_, _, -, -, -, rfl⟩ |
      ⟨_, _, -, rfl⟩ | ⟨_, -, -, -, -, rfl⟩ | ⟨_, -, rfl⟩ := hs'
    all_goals exact ⟨rfl, rfl⟩

@[simp] theorem exchange_port (w : Word) (s : State) : (exchange w s).port = s.port := by
  obtain ⟨-, hx⟩ | ⟨_, _, -, hx⟩ := exchange_cases w s <;> rw [hx]

@[simp] theorem judge_port (s : State) : (judge s).port = s.port := by
  obtain ⟨-, hj⟩ | ⟨-, -, hj⟩ | ⟨-, -, hj⟩ := judge_cases s <;> simp [hj]

@[simp] theorem judge_bus (s : State) : (judge s).bus = s.bus := by
  obtain ⟨-, hj⟩ | ⟨-, -, hj⟩ | ⟨-, -, hj⟩ := judge_cases s <;> simp [hj]

/-- What a step outside XCHG does to the environment: the port's head word may be taken, in IDLE; the bus stays. -/
theorem step_environment {s t : State} (hr : s.resetPin = false) (hxchg : s.fsm ≠ .xchg) (h : step s = .next t) :
    (t.port = s.port ∨ (s.fsm = .idle ∧ ∃ w, s.port = w :: t.port)) ∧ t.bus = s.bus := by
  obtain ⟨hreset, -⟩ | ⟨-, ⟨-, -, rfl⟩ | ⟨w, rest, _, hidle, hport, -, rfl⟩ |
    ⟨w, rest, i, hidle, hport, -, hi, he⟩ | ⟨-, rfl⟩ | ⟨hbusy, -⟩ | ⟨-, rfl⟩⟩ := step_cases h
  · exact absurd hreset (by simp [hr])
  · exact ⟨.inl rfl, rfl⟩
  · exact ⟨.inr ⟨hidle, w, hport⟩, rfl⟩
  · obtain ⟨hkept, hbus⟩ := exec_command_keeps_port_bus hi he
    exact ⟨.inr ⟨hidle, w, hport.trans (by rw [hkept])⟩, hbus⟩
  · exact ⟨.inl (prepare_port s), prepare_bus s⟩
  · exact absurd hbusy hxchg
  · exact ⟨.inl (judge_port s), judge_bus s⟩

/-- Settles O48: in XCHG the step is the exchange of REQ, and every other step leaves the bus alone. -/
theorem oneCommandAndOneExchangeAtATime : Obligations.OneCommandAndOneExchangeAtATime := by
  unfold Obligations.OneCommandAndOneExchangeAtATime
  intro s t hr h
  by_cases hxchg : s.fsm = .xchg
  · have ht : exchange s.req s = t := Host.Outcome.next.inj ((step_xchg hr hxchg).symm.trans h)
    subst ht
    refine ⟨.inl (exchange_port _ s), fun hne => absurd hxchg hne, fun _ => ?_⟩
    obtain hsilent | ⟨a, b', hans, hx⟩ := exchange_cases s.req s
    · exact .inl hsilent
    · rw [hx]
      exact .inr ⟨a, b', hans, rfl, rfl, rfl⟩
  · obtain ⟨hport, hbus⟩ := step_environment hr hxchg h
    exact ⟨hport, fun _ => hbus, fun hx => absurd hx hxchg⟩

end Sys2Proof.Machine

/-! ### Reading twice (20_memory.md R65)

A response writes nothing that FBRD, CSRR or CLOOKUP reads; CLOOKUP's copy into FBUF is not looked up again. -/

namespace Sys2Proof.Machine

@[simp] theorem readFbuf_respond (hit : Bool) (data : Word) (s : State) (a : BitVec 12) :
    (respond hit data s).readFbuf a = s.readFbuf a := rfl

/-- No CSR shows the response registers or the control state (10_state.md R25 to R36). -/
@[simp] theorem csrValue_respond (hit : Bool) (data : Word) (s : State) (r : Csr) :
    csrValue (respond hit data s) r = csrValue s r := by
  cases r <;> rfl

theorem exec_fbrd (a : BitVec 12) (s : State) :
    exec (.fbrd a) s = .next (respond false ((s.readFbuf a).setWidth 64) s) := rfl

theorem exec_csrr_defined {n : BitVec 8} {r : Csr} (h : csrOfNumber n = some r) (s : State) :
    exec (.csrr n) s = .next (respond false (csrValue s r) s) := by
  simp only [exec, execCsrr, h]

theorem exec_csrr_reserved {n : BitVec 8} (h : csrOfNumber n = none) (s : State) :
    exec (.csrr n) s = .next (raise .badCommand 0 s) := by
  simp only [exec, execCsrr, h]

theorem exec_clookup_hit {s : State} {sid : StoreId} {fidx : FrameIndex} {k : Nat} {e : CacheEntry}
    (on : s.powered = true) (h : cacheFind s.params.keyMode sid fidx s.ce = some (k, e)) :
    exec (.clookup sid fidx) s = .next (respond true (BitVec.ofNat 64 k) { s with fbuf := e.data }) := by
  simp only [exec, execClookup, on, h, if_true]

theorem exec_clookup_miss {s : State} {sid : StoreId} {fidx : FrameIndex}
    (on : s.powered = true) (h : cacheFind s.params.keyMode sid fidx s.ce = none) :
    exec (.clookup sid fidx) s = .next (respond false 0 s) := by
  simp only [exec, execClookup, on, h, if_true]

theorem exec_clookup_off {s : State} {sid : StoreId} {fidx : FrameIndex} (off : s.powered = false) :
    exec (.clookup sid fidx) s = .next (raise .notPoweredOn 0 s) := by
  simp [exec, execClookup, off]

theorem exec_fbrd_again {s t : State} {a : BitVec 12} (h : exec (.fbrd a) s = .next t) :
    exec (.fbrd a) t = .next t ∧ t = { s with fsm := .idle, rspStatus := t.rspStatus, rspData := t.rspData } := by
  rw [exec_fbrd] at h
  cases h
  exact ⟨by rw [exec_fbrd, readFbuf_respond]; rfl, rfl⟩

theorem exec_csrr_again {s t : State} {n : BitVec 8} (h : exec (.csrr n) s = .next t) :
    exec (.csrr n) t = .next t ∧ t = { s with fsm := .idle, rspStatus := t.rspStatus, rspData := t.rspData } := by
  cases hn : csrOfNumber n with
  | none =>
    rw [exec_csrr_reserved hn] at h
    cases h
    exact ⟨exec_csrr_reserved hn _, rfl⟩
  | some r =>
    rw [exec_csrr_defined hn] at h
    cases h
    refine ⟨?_, rfl⟩
    rw [exec_csrr_defined hn, csrValue_respond]
    rfl

theorem exec_clookup_again {s t : State} {sid : StoreId} {fidx : FrameIndex}
    (h : exec (.clookup sid fidx) s = .next t) : exec (.clookup sid fidx) t = .next t := by
  cases hp : s.powered with
  | false =>
    rw [exec_clookup_off hp] at h
    cases h
    exact exec_clookup_off hp
  | true =>
    cases hf : cacheFind s.params.keyMode sid fidx s.ce with
    | none =>
      rw [exec_clookup_miss hp hf] at h
      cases h
      exact exec_clookup_miss hp hf
    | some r =>
      obtain ⟨k, e⟩ := r
      rw [exec_clookup_hit hp hf] at h
      cases h
      exact exec_clookup_hit hp hf

/-- Settles O18, one lemma for each of the three reads. -/
theorem readsAreIdempotent : Obligations.ReadsAreIdempotent := by
  unfold Obligations.ReadsAreIdempotent
  rintro s t i (⟨a, rfl⟩ | ⟨n, rfl⟩ | ⟨sid, fidx, rfl⟩) h
  · obtain ⟨hagain, hframe⟩ := exec_fbrd_again h
    exact ⟨hagain, fun _ => hframe⟩
  · obtain ⟨hagain, hframe⟩ := exec_csrr_again h
    exact ⟨hagain, fun _ => hframe⟩
  · exact ⟨exec_clookup_again h, fun hne => absurd rfl (hne sid fidx)⟩

end Sys2Proof.Machine

/-! ### Byte order (20_memory.md R63) -/

namespace Sys2Proof.Machine

theorem toFrame_getElem? (resets : Nat) {m : Memory} (hwf : m.wf = true) {k : Nat} (hk : k < 4096) :
    (m.toFrame resets)[k]? = some (m.read resets k) := by
  rw [Vector.getElem?_eq_getElem hk, toFrame_getElem resets m hwf k hk]

theorem wordToBytes_getElem? (w : Word) {k : Nat} (hk : k < 8) :
    (wordToBytes w)[k]? = some (w.extractLsb' (8 * k) 8) := by
  simp [wordToBytes, hk]

/-- Bit `i` of a word stands in byte `i / 8` of its bytes, at place `i % 8`. -/
theorem wordOfBytes_getLsbD (l : List Byte) {i : Nat} (hi : i < 64) :
    (wordOfBytes l).getLsbD i = (l[i / 8]?.getD 0).getLsbD (i % 8) := by
  induction l generalizing i with
  | nil => simp [wordOfBytes]
  | cons b l ih =>
    simp only [wordOfBytes, BitVec.getLsbD_or, BitVec.getLsbD_setWidth, BitVec.getLsbD_shiftLeft]
    by_cases hlow : i < 8
    · simp [hi, hlow, Nat.div_eq_of_lt hlow, Nat.mod_eq_of_lt hlow]
    · have hbyte : i / 8 = (i - 8) / 8 + 1 := by omega
      have hplace : i % 8 = (i - 8) % 8 := by omega
      rw [hbyte, hplace, List.getElem?_cons_succ, ← ih (by omega)]
      simp [hi, hlow, BitVec.getLsbD_of_ge b i (by omega)]

/-- A word is restored from its bytes. -/
theorem wordOfBytes_wordToBytes (w : Word) : wordOfBytes (wordToBytes w) = w := by
  refine BitVec.eq_of_getLsbD_eq fun i hi => ?_
  have hplace : i % 8 < 8 := Nat.mod_lt i (by decide)
  rw [wordOfBytes_getLsbD _ hi, wordToBytes_getElem? w (by omega), Option.getD_some, BitVec.getLsbD_extractLsb',
    Nat.div_add_mod]
  simp [hplace]

/-- Settles O56: what a buffer sends by `toFrame_getElem?`, what it receives by that lemma on the frame it was given,
and words by the place of each bit. -/
theorem byteOrderIsKept : Obligations.ByteOrderIsKept := by
  unfold Obligations.ByteOrderIsKept
  refine ⟨fun resets m k hwf hk => toFrame_getElem? resets hwf hk, fun resets f k hk => ?_, fun w =>
    ⟨wordOfBytes_wordToBytes w, fun k hk => wordToBytes_getElem? w hk⟩⟩
  have hsent := toFrame_getElem? resets (ofFrame_wf f) hk
  rwa [toFrame_ofFrame] at hsent

end Sys2Proof.Machine

/-! ### Fields of a word (30_encoding.md R80 to R87, R91)

A field read where it was put is the field, a field read anywhere else is 0, and a field of a word put back where it
stood is the word under that field's mask. Every encoder and decoder fact below comes from these. -/

namespace Sys2Proof.Machine

theorem extractLsb'_placed_same {n lo : Nat} (x : BitVec n) (h : lo + n ≤ 64) :
    (x.setWidth 64 <<< lo).extractLsb' lo n = x := by
  refine BitVec.eq_of_getLsbD_eq fun k hk => ?_
  have hword : lo + k < 64 := by omega
  simp [hk, hword]

theorem extractLsb'_placed_elsewhere {m lo' lo n : Nat} (x : BitVec m) (h : lo' + m ≤ lo ∨ lo + n ≤ lo') :
    (x.setWidth 64 <<< lo').extractLsb' lo n = 0#n := by
  refine BitVec.eq_of_getLsbD_eq fun k hk => ?_
  obtain habove | hbelow := h
  · simp [BitVec.getLsbD_of_ge x (lo + k - lo') (by omega)]
  · simp [show lo + k < lo' by omega]

/-- The field at the low end of a word, which the encoders write without a shift. -/
theorem extractLsb'_lowest_same {n : Nat} (x : BitVec n) (h : n ≤ 64) : (x.setWidth 64).extractLsb' 0 n = x := by
  simpa using extractLsb'_placed_same (lo := 0) x (by omega)

theorem extractLsb'_lowest_elsewhere {m lo n : Nat} (x : BitVec m) (h : m ≤ lo) :
    (x.setWidth 64).extractLsb' lo n = 0#n := by
  simpa using extractLsb'_placed_elsewhere (lo' := 0) (n := n) x (.inl (by omega : 0 + m ≤ lo))

/-- A field put back where it stood is the word under the field's mask. -/
theorem field_in_place (w : Word) (lo n : Nat) :
    (w.extractLsb' lo n).setWidth 64 <<< lo = w &&& (BitVec.allOnes n).setWidth 64 <<< lo := by
  refine BitVec.eq_of_getLsbD_eq fun k hk => ?_
  rw [getLsbD_field_in_place w hk, BitVec.getLsbD_and]
  by_cases hlo : lo ≤ k
  · have hfield : k - lo < n ↔ k < lo + n := by omega
    simp [hk, hlo, hfield, Nat.not_lt.mpr hlo, Bool.and_comm]
  · simp [hlo]

/-- A word that fits a row is the row's match and the bits outside its mask (30_encoding.md R88). -/
theorem word_of_row {w mask code rest : Word} (h : w &&& mask = code) (hrest : mask ||| rest = BitVec.allOnes 64) :
    code ||| (w &&& rest) = w := by
  rw [← h, ← BitVec.and_or_distrib_left, hrest, BitVec.and_allOnes]

/-- Each field is read where `pack` puts it (40_protocol_engine.md R111, R112); the converse is `pack_unpack`. -/
theorem unpack_pack (l : RegLayout) (r : BusReg) : unpack l (pack l r) = r := by
  cases l with
  | lsbFirst | msbFirst =>
    simp (disch := omega) only [pack, unpack, BitVec.extractLsb'_or, extractLsb'_placed_same,
      extractLsb'_placed_elsewhere, extractLsb'_lowest_same, extractLsb'_lowest_elsewhere, BitVec.zero_or,
      BitVec.or_zero]

/-- Settles O5: where the fields are read is the definition; the inverse by `pack_unpack` and `unpack_pack`. -/
theorem unpackIsTheInverseOfPack : Obligations.UnpackIsTheInverseOfPack := by
  unfold Obligations.UnpackIsTheInverseOfPack
  exact fun w => ⟨rfl, rfl, fun l r => ⟨pack_unpack l w, unpack_pack l r⟩⟩

/-- A packed register word decodes by its opcode, with the other fields as they were packed (30_encoding.md R92). -/
theorem decodeBus_pack (p : Params) (opc : BitVec 8) (fidx : FrameIndex) (csum : BitVec 32) (rc : BitVec 8) :
    decodeBus p (pack p.layout ⟨opc, fidx, csum, rc⟩) =
      if opc = p.opcodes.deviceInit then some (.opDeviceInit fidx csum rc)
      else if opc = p.opcodes.zeroAll then some (.opZeroAll fidx csum rc)
      else if opc = p.opcodes.powerOff then some (.opPowerOff fidx csum rc)
      else if opc = p.opcodes.frameRead then some (.opFrameRead fidx csum rc)
      else if opc = p.opcodes.frameWrite then some (.opFrameWrite fidx csum rc)
      else none := by
  simp only [decodeBus, unpack_pack]

/-- Settles O2: the packed word decodes by its opcode, and no earlier opcode of the map has the same value. -/
theorem decodeEncodeEveryBusRequest : Obligations.DecodeEncodeEveryBusRequest := by
  unfold Obligations.DecodeEncodeEveryBusRequest
  intro p i hdistinct hi
  simp only [OpcodeMap.Distinct, OpcodeMap.values, List.nodup_cons, List.mem_cons, List.not_mem_nil, or_false,
    not_or] at hdistinct
  obtain ⟨⟨hzero, hoff, hread, hwrite⟩, ⟨hoff', hread', hwrite'⟩, ⟨hread'', hwrite''⟩, hwrite''', -⟩ := hdistinct
  cases i with
  | opDeviceInit fidx csum rc => rw [encode, decodeBus_pack, if_pos rfl]
  | opZeroAll fidx csum rc => rw [encode, decodeBus_pack, if_neg (Ne.symm hzero), if_pos rfl]
  | opPowerOff fidx csum rc =>
    rw [encode, decodeBus_pack, if_neg (Ne.symm hoff), if_neg (Ne.symm hoff'), if_pos rfl]
  | opFrameRead fidx csum rc =>
    rw [encode, decodeBus_pack, if_neg (Ne.symm hread), if_neg (Ne.symm hread'), if_neg (Ne.symm hread''), if_pos rfl]
  | opFrameWrite fidx csum rc =>
    rw [encode, decodeBus_pack, if_neg (Ne.symm hwrite), if_neg (Ne.symm hwrite'), if_neg (Ne.symm hwrite''),
      if_neg (Ne.symm hwrite'''), if_pos rfl]
  | _ => cases hi

end Sys2Proof.Machine

/-! ### Decoding a command (30_encoding.md R88, R89)

A word is the command `i` exactly if it fits `i`'s row and its operand fields are `i`'s operands. Every row fixes the
low byte, so a word fits the rows of one code only, and the decoder's order of rows does not matter. -/

namespace Sys2Proof.Machine

/-- The command of a code, with the operand fields of a word (formats H0 to HC, 30_encoding.md R81 to R86, R88). -/
def commandWithFields (code : Nat) (w : Word) : Option Instr :=
  match code with
  | 0x1 => some .pwrOn
  | 0x2 => some .pwrOff
  | 0x3 => some (.exec (byteField w) (fidxField w))
  | 0x4 => some (.clookup (byteField w) (fidxField w))
  | 0x5 => some (.cupsert (byteField w) (fidxField w))
  | 0x6 => some (.alloc (haveField w) (needField w))
  | 0x7 => some (.fbrd (addrField w))
  | 0x8 => some (.fbwr (addrField w) (dataField w))
  | 0x9 => some (.csrr (byteField w))
  | 0xA => some (.csrw (byteField w) (valueField w))
  | _ => none

/-- The word fits the row of the instruction (30_encoding.md R88). -/
def FitsRow (w : Word) (i : Instr) : Prop := w &&& i.rowMask = i.rowMatch

/-- Every row fixes the low byte, at the row's match. -/
theorem FitsRow.lowByte {w : Word} {i : Instr} (h : FitsRow w i) : w &&& 0xFF = i.rowMatch := by
  have hmask : i.rowMask &&& 0xFF = 0xFF := by cases i <;> simp [Instr.rowMask]
  have hmatch : i.rowMatch &&& 0xFF = i.rowMatch := by cases i <;> simp [Instr.rowMatch]
  calc w &&& 0xFF = w &&& i.rowMask &&& 0xFF := by rw [BitVec.and_assoc, hmask]
    _ = i.rowMatch := by rw [h, hmatch]

theorem FitsRow.code_eq {w : Word} {i j : Instr} (hi : FitsRow w i) (hj : FitsRow w j) : i.rowMatch = j.rowMatch :=
  hi.lowByte.symm.trans hj.lowByte

/-- What the decoder may answer for a word: a command whose row the word fits, with the word's fields, or illegal if
the word fits no command's row. -/
inductive DecodeAnswer (w : Word) : Decoded → Prop where
  | command {i : Instr} (hrow : FitsRow w i) (hfields : commandWithFields i.rowMatch.toNat w = some i) :
      DecodeAnswer w (.instr i)
  | noRow (hnone : ∀ i : Instr, i.isCommand = true → ¬ FitsRow w i) : DecodeAnswer w (.illegal (rejectOf w))

/-- The decoder tries the ten rows in turn. -/
theorem decode_answer (w : Word) : DecodeAnswer w (decode w) := by
  refine iteInduction (fun hrow => .command hrow rfl) fun hpwrOn => ?_
  refine iteInduction (fun hrow => .command hrow rfl) fun hpwrOff => ?_
  refine iteInduction (fun hrow => .command hrow rfl) fun hexec => ?_
  refine iteInduction (fun hrow => .command hrow rfl) fun hclookup => ?_
  refine iteInduction (fun hrow => .command hrow rfl) fun hcupsert => ?_
  refine iteInduction (fun hrow => .command hrow rfl) fun halloc => ?_
  refine iteInduction (fun hrow => .command hrow rfl) fun hfbrd => ?_
  refine iteInduction (fun hrow => .command hrow rfl) fun hfbwr => ?_
  refine iteInduction (fun hrow => .command hrow rfl) fun hcsrr => ?_
  refine iteInduction (fun hrow => .command hrow rfl) fun hcsrw => .noRow fun i hi => ?_
  cases i with
  | pwrOn => exact hpwrOn
  | pwrOff => exact hpwrOff
  | exec => exact hexec
  | clookup => exact hclookup
  | cupsert => exact hcupsert
  | alloc => exact halloc
  | fbrd => exact hfbrd
  | fbwr => exact hfbwr
  | csrr => exact hcsrr
  | csrw => exact hcsrw
  | opDeviceInit | opZeroAll | opPowerOff | opFrameRead | opFrameWrite => cases hi

/-- A decoded command fits its row, and its operands are the fields of the word. -/
theorem fitsRow_of_decode {w : Word} {i : Instr} (h : decode w = .instr i) :
    FitsRow w i ∧ commandWithFields i.rowMatch.toNat w = some i := by
  have hanswer := decode_answer w
  rw [h] at hanswer
  cases hanswer with
  | command hrow hfields => exact ⟨hrow, hfields⟩

/-- An illegal word fits no command's row. -/
theorem not_fitsRow_of_illegal {w : Word} {why : DecodeReject} (h : decode w = .illegal why) {i : Instr}
    (hi : i.isCommand = true) : ¬ FitsRow w i := by
  have hanswer := decode_answer w
  rw [h] at hanswer
  cases hanswer with
  | noRow hnone => exact hnone i hi

/-- A word that fits a command's row decodes to the command of that code with the word's fields. -/
theorem decode_of_fitsRow {w : Word} {i j : Instr} (hi : i.isCommand = true) (hrow : FitsRow w i)
    (hfields : commandWithFields i.rowMatch.toNat w = some j) : decode w = .instr j := by
  cases hdec : decode w with
  | instr k =>
    obtain ⟨hrow', hfields'⟩ := fitsRow_of_decode hdec
    rw [← hrow.code_eq hrow', hfields] at hfields'
    rw [Option.some.inj hfields']
  | illegal why => exact absurd hrow (not_fitsRow_of_illegal hdec hi)

/-- The illegal words are those that fit no command's row (30_encoding.md R89). -/
theorem decode_illegal_iff {w : Word} :
    (∃ why, decode w = .illegal why) ↔ ∀ i : Instr, i.isCommand = true → ¬ FitsRow w i := by
  refine ⟨fun ⟨why, h⟩ i hi => not_fitsRow_of_illegal h hi, fun hnone => ?_⟩
  cases hdec : decode w with
  | instr i => exact absurd (fitsRow_of_decode hdec).1 (hnone i (decode_isCommand hdec))
  | illegal why => exact ⟨why, rfl⟩

/-! ### The encoder is the decoder's inverse -/

/-- A command's word does not depend on the parameters (30_encoding.md R81 to R86). -/
theorem encode_command_params {i : Instr} (hi : i.isCommand = true) (p q : Params) : encode p i = encode q i := by
  cases i with
  | opDeviceInit | opZeroAll | opPowerOff | opFrameRead | opFrameWrite => cases hi
  | _ => rfl

theorem fitsRow_encode {i : Instr} (hi : i.isCommand = true) (p : Params) : FitsRow (encode p i) i := by
  rw [encode_command_params hi p Params.default]
  cases i with
  | pwrOn => exact Laws.TableRow.pwrOn
  | pwrOff => exact Laws.TableRow.pwrOff
  | exec opc fidx => exact Laws.TableRow.exec opc fidx
  | clookup sid fidx => exact Laws.TableRow.clookup sid fidx
  | cupsert sid fidx => exact Laws.TableRow.cupsert sid fidx
  | alloc have_ need => exact Laws.TableRow.alloc have_ need
  | fbrd addr => exact Laws.TableRow.fbrd addr
  | fbwr addr data => exact Laws.TableRow.fbwr addr data
  | csrr csr => exact Laws.TableRow.csrr csr
  | csrw csr value => exact Laws.TableRow.csrw csr value
  | opDeviceInit | opZeroAll | opPowerOff | opFrameRead | opFrameWrite => cases hi

/-- The operand fields of a command's word are the command's operands. -/
theorem commandWithFields_encode {i : Instr} (hi : i.isCommand = true) (p : Params) :
    commandWithFields i.rowMatch.toNat (encode p i) = some i := by
  cases i with
  | opDeviceInit | opZeroAll | opPowerOff | opFrameRead | opFrameWrite => cases hi
  | _ =>
    simp (disch := omega) [Instr.rowMatch, commandWithFields, encode, byteField, fidxField, haveField, needField,
      addrField, dataField, valueField, BitVec.extractLsb'_or, extractLsb'_placed_same, extractLsb'_placed_elsewhere]

/-- Settles O1: the word fits the command's row and its fields are the command's operands. -/
theorem decodeEncodeEveryCommand : Obligations.DecodeEncodeEveryCommand := by
  unfold Obligations.DecodeEncodeEveryCommand
  exact fun p i hi => decode_of_fitsRow hi (fitsRow_encode hi p) (commandWithFields_encode hi p)

/-- A word that fits a command's row is the code and the fields, so the command with those fields encodes to it. -/
theorem encode_of_fitsRow {w : Word} {i : Instr} (p : Params) (hrow : FitsRow w i)
    (hfields : commandWithFields i.rowMatch.toNat w = some i) : encode p i = w := by
  cases i with
  | opDeviceInit | opZeroAll | opPowerOff | opFrameRead | opFrameWrite => cases hfields
  | pwrOn | pwrOff => exact hrow.symm.trans BitVec.and_allOnes
  | _ =>
    cases hfields
    simp only [encode, byteField, fidxField, haveField, needField, addrField, dataField, valueField, field_in_place,
      BitVec.or_assoc, ← BitVec.and_or_distrib_left]
    exact word_of_row hrow (by simp only [Instr.rowMask]; decide)

/-- Settles O3: a command by its row and fields, a bus request by `encode_of_decodeBus`. -/
theorem encodeDecodedWordIsTheWord : Obligations.EncodeDecodedWordIsTheWord := by
  unfold Obligations.EncodeDecodedWordIsTheWord
  refine fun p w i => ⟨fun hdec => ?_, encode_of_decodeBus⟩
  obtain ⟨hrow, hfields⟩ := fitsRow_of_decode hdec
  exact encode_of_fitsRow p hrow hfields

end Sys2Proof.Machine

/-! ### The command table (30_encoding.md R88) -/

namespace Sys2Proof.Machine

/-- One row of the command table: a word decodes to an instruction `named` by the row exactly if it fits the row, and
then to the row's command with the word's fields. -/
theorem decode_row {w mask code : Word} {named : Instr → Prop} {i : Instr}
    (hrow : ∀ j, named j → j.rowMask = mask ∧ j.rowMatch = code) (hi : i.isCommand = true) (hself : named i)
    (hfields : commandWithFields i.rowMatch.toNat w = some i) :
    ((∃ j, decode w = .instr j ∧ named j) ↔ w &&& mask = code) ∧ (w &&& mask = code → decode w = .instr i) := by
  obtain ⟨rfl, rfl⟩ := hrow i hself
  have hdecode : FitsRow w i → decode w = .instr i := fun hfits => decode_of_fitsRow hi hfits hfields
  refine ⟨⟨fun ⟨j, hdec, hj⟩ => ?_, fun hfits => ⟨i, hdecode hfits, hself⟩⟩, hdecode⟩
  obtain ⟨hmask, hmatch⟩ := hrow j hj
  rw [← hmask, ← hmatch]
  exact (fitsRow_of_decode hdec).1

/-- Settles O6, row by row: a row's named instructions share its mask and match. -/
theorem decodeFollowsTheCommandTable : Obligations.DecodeFollowsTheCommandTable := by
  unfold Obligations.DecodeFollowsTheCommandTable
  intro w
  dsimp only
  refine ⟨decode_row ?pwrOn rfl rfl rfl, decode_row ?pwrOff rfl rfl rfl, decode_row ?exec rfl ⟨_, _, rfl⟩ rfl,
    decode_row ?clookup rfl ⟨_, _, rfl⟩ rfl, decode_row ?cupsert rfl ⟨_, _, rfl⟩ rfl,
    decode_row ?alloc rfl ⟨_, _, rfl⟩ rfl, decode_row ?fbrd rfl ⟨_, rfl⟩ rfl, decode_row ?fbwr rfl ⟨_, _, rfl⟩ rfl,
    decode_row ?csrr rfl ⟨_, rfl⟩ rfl, decode_row ?csrw rfl ⟨_, _, rfl⟩ rfl⟩
  case pwrOn | pwrOff => rintro _ rfl; exact ⟨rfl, rfl⟩
  case fbrd | csrr => rintro _ ⟨_, rfl⟩; exact ⟨rfl, rfl⟩
  case exec | clookup | cupsert | alloc | fbwr | csrw => rintro _ ⟨_, _, rfl⟩; exact ⟨rfl, rfl⟩

/-! ### Illegal words, CSR numbers and CSR values (30_encoding.md R89) -/

/-- A command's row fixes CMD at the command's code, 1 to 0xA. -/
theorem FitsRow.cmdField_legal {w : Word} {i : Instr} (hi : i.isCommand = true) (h : FitsRow w i) :
    cmdField w ≠ 0 ∧ cmdField w < 0xB := by
  have hcmd : cmdField w = cmdField i.rowMatch := by
    rw [← h.lowByte, cmdField, cmdField, BitVec.extractLsb'_and]
    exact BitVec.and_allOnes.symm
  rw [hcmd]
  cases i with
  | opDeviceInit | opZeroAll | opPowerOff | opFrameRead | opFrameWrite => cases hi
  | _ => simp only [Instr.rowMatch]; decide

/-- R89's list of the illegal words: a CMD that is no command's fits no row. -/
theorem decode_illegal_iff_cmd {w : Word} : (∃ why, decode w = .illegal why) ↔
    (cmdField w = 0 ∨ 0xB ≤ cmdField w ∨ ∀ i : Instr, i.isCommand = true → ¬ FitsRow w i) := by
  rw [decode_illegal_iff]
  refine ⟨fun h => .inr (.inr h), ?_⟩
  rintro (hzero | hhigh | hnone) i hi hrow
  · exact (hrow.cmdField_legal hi).1 hzero
  · exact absurd (hrow.cmdField_legal hi).2 (BitVec.not_lt.mpr hhigh)
  · exact hnone i hi hrow

/-- An illegal word is taken from the port and fails in the same step. -/
theorem step_illegal {s : State} {w : Word} {rest : List Word} {why : DecodeReject} (hr : s.resetPin = false)
    (hidle : s.fsm = .idle) (hport : s.port = w :: rest) (hdec : decode w = .illegal why) :
    step s = .next (raise .badCommand 0 { s with port := rest }) := by
  simp only [step, fetch_idle hr hidle, acceptCommand, hport, hdec]

/-- In IDLE, failing is writing the response registers. -/
theorem raise_badCommand_idle {s : State} (hidle : s.fsm = .idle) :
    raise .badCommand 0 s = { s with rspStatus := 0x41, rspData := 0 } := by
  rw [raise, ← hidle]
  rfl

/-- A number other than CAPACITY's and RETRY's, reserved or read-only, cannot be written
(44_lifecycle_access.md R205). -/
theorem exec_csrw_unwritable {n : BitVec 8} (hn : 1 < n.toNat) (v : BitVec 48) (s : State) :
    exec (.csrw n v) s = .next (raise .badCommand 0 s) := by
  simp only [exec, execCsrw]
  cases hcsr : csrOfNumber n with
  | none => rfl
  | some r =>
    obtain rfl := (csrOfNumber_some_iff n r).mp hcsr
    cases r with
    | capacity | retry => exact absurd hn (by decide)
    | _ => rfl

theorem exec_csrw_capacity (v : BitVec 48) (s : State) : exec (.csrw 0 v) s = .next (writeCapacity v s) := rfl

theorem exec_csrw_retry (v : BitVec 48) (s : State) : exec (.csrw 1 v) s = .next (writeRetry v s) := rfl

/-- The field of a CSR value's upper bits is 0 exactly if the value fits below it. -/
theorem upperField_eq_zero_iff (v : BitVec 48) {lo n : Nat} (h : lo + n = 48) :
    v.extractLsb' lo n = 0#n ↔ v.toNat < 2 ^ lo := by
  have hfits : v.toNat / 2 ^ lo < 2 ^ n := by
    rw [Nat.div_lt_iff_lt_mul (Nat.two_pow_pos lo), ← Nat.pow_add, Nat.add_comm, h]
    exact v.isLt
  rw [← BitVec.toNat_inj, BitVec.extractLsb'_toNat, Nat.shiftRight_eq_div_pow, Nat.mod_eq_of_lt hfits,
    BitVec.toNat_zero, Nat.div_eq_zero_iff_lt (Nat.two_pow_pos lo)]

theorem capReserved_eq_zero_iff (v : BitVec 48) : capReserved v = 0 ↔ v.toNat < 2 ^ 16 :=
  upperField_eq_zero_iff v rfl

theorem retryReserved_eq_zero_iff (v : BitVec 48) : retryReserved v = 0 ↔ v.toNat < 2 ^ 33 :=
  upperField_eq_zero_iff v rfl

/-- Without reserved bits, CAP is the whole value (10_state.md R26). -/
theorem capField_toNat {v : BitVec 48} (h : capReserved v = 0) : (capField v).toNat = v.toNat := by
  rw [capReserved_eq_zero_iff] at h
  rw [capField, BitVec.extractLsb'_toNat, Nat.shiftRight_zero, Nat.mod_eq_of_lt h]

/-- A value with reserved bits, or while off a capacity 0 or above CAP_MAX, is illegal (10_state.md R26). -/
theorem writeCapacity_illegal {v : BitVec 48} {s : State}
    (h : 2 ^ 16 ≤ v.toNat ∨ (s.powered = false ∧ (v = 0 ∨ s.params.capMax.toNat < v.toNat))) :
    writeCapacity v s = raise .badCommand 0 s := by
  obtain ⟨-, hw⟩ | ⟨hres, on, -⟩ | ⟨-, -, -, hw⟩ | ⟨hres, -, hcap, hle, -⟩ := writeCapacity_cases v s
  · exact hw
  · have hsmall := (capReserved_eq_zero_iff v).mp hres
    obtain hbig | ⟨off, -⟩ := h
    · omega
    · simp [on] at off
  · exact hw
  · have hsmall := (capReserved_eq_zero_iff v).mp hres
    have hvalue := capField_toNat hres
    obtain hbig | ⟨-, rfl | hover⟩ := h
    · omega
    · exact absurd rfl hcap
    · have := BitVec.le_def.mp hle
      omega

/-- A value with reserved bits is illegal (10_state.md R27). -/
theorem writeRetry_illegal {v : BitVec 48} {s : State} (h : 2 ^ 33 ≤ v.toNat) :
    writeRetry v s = raise .badCommand 0 s := by
  obtain ⟨-, hw⟩ | ⟨hres, -⟩ := writeRetry_cases v s
  · exact hw
  · have := (retryReserved_eq_zero_iff v).mp hres
    omega

/-- Settles O7: the illegal words by the rows, their failure by `step_illegal`, and the illegal numbers and values by
the checks of CSRR and CSRW. -/
theorem illegalWordsFailBadCommand : Obligations.IllegalWordsFailBadCommand := by
  unfold Obligations.IllegalWordsFailBadCommand
  refine ⟨fun w => decode_illegal_iff_cmd, decode_illegal_iff_cmd.mpr (.inl rfl), ?_, fun s n v => ⟨?_, ?_⟩⟩
  · intro s w rest why hr hidle hport hdec
    rw [step_illegal hr hidle hport hdec, raise_badCommand_idle (s := { s with port := rest }) hidle]
  · exact fun hn => exec_csrr_reserved ((csrOfNumber_none_iff n).mpr hn) s
  · rintro (hn | ⟨rfl, hv⟩ | ⟨rfl, hv⟩ | ⟨rfl, hoff⟩)
    · exact exec_csrw_unwritable hn v s
    · rw [exec_csrw_capacity, writeCapacity_illegal (.inl hv)]; rfl
    · rw [exec_csrw_retry, writeRetry_illegal hv]; rfl
    · rw [exec_csrw_capacity, writeCapacity_illegal (.inr hoff)]; rfl

/-! ### The pseudo-instructions (30_encoding.md R96) -/

/-- A number of `w` bits fits a field of `w` bits. -/
@[simp] theorem fitting_toNat {w : Nat} (v : BitVec w) : fitting w v.toNat = some v := by
  simp [fitting, v.isLt]

theorem fitting_of_lt {w n : Nat} (h : n < 2 ^ w) : fitting w n = some (BitVec.ofNat w n) := if_pos h

/-- A traversal of a list that fails nowhere is a map. -/
theorem mapM_some_of_forall {α β : Type} {f : α → Option β} {g : α → β} {l : List α} (h : ∀ x ∈ l, f x = some (g x)) :
    l.mapM f = some (l.map g) := by
  induction l with
  | nil => rfl
  | cons x l ih =>
    rw [List.mapM_cons, h x List.mem_cons_self, ih fun y hy => h y (List.mem_cons_of_mem x hy)]
    rfl

/-- FBFILL: every address from `a` to `b` fits its field. -/
theorem pseudoOf_fbfill (p : Params) {a b : Nat} (v : Byte) (hab : a ≤ b) (hb : b < 4096) :
    pseudoOf p "FBFILL".toList [a, b, v.toNat] =
      some ((List.range (b - a + 1)).map fun j => .fbwr (BitVec.ofNat 12 (a + j)) v) := by
  simp only [pseudoOf, hab, and_self, if_true, fitting_toNat, Option.bind_eq_bind, Option.bind_some]
  refine mapM_some_of_forall fun j hj => ?_
  have hfits : a + j < 2 ^ 12 := by
    have := List.mem_range.mp hj
    omega
  rw [fitting_of_lt hfits]
  rfl

/-- A LIMIT as a RETRY value: UNBOUNDED and the reserved bits are 0 (10_state.md R27). -/
theorem setWidth_48_eq_append (v : BitVec 32) : v.setWidth 48 = 0#16 ++ v := by
  rw [BitVec.setWidth_eq_append (by decide : 32 ≤ 48)]
  rfl

/-- Settles O60: the mnemonics are compared as text, the operands fit their fields. -/
theorem pseudoInstructionsExpand : Obligations.PseudoInstructionsExpand := by
  unfold Obligations.PseudoInstructionsExpand
  intro p
  refine ⟨rfl, rfl, rfl, fun f => ?_, fun f => ?_, fun v => ?_, fun v => ?_, rfl,
    fun a b v hab hb => pseudoOf_fbfill p v hab hb⟩
  · simp [pseudoOf]
  · simp [pseudoOf]
  · simp [pseudoOf, Csr.number]
  · simp [pseudoOf, Csr.number, setWidth_48_eq_append]

/-! ### The worked encodings (30_encoding.md R97) -/

/-- The payload of EXEC's first attempt is FBUF in both payload modes (40_protocol_engine.md R117). -/
theorem payload_latch (opc : BitVec 8) (fidx : FrameIndex) (s : State) : payload (latch opc fidx s) = s.fbufFrame := by
  cases hmode : s.params.retryPayload <;> simp [payload, State.fbufFrame, latch, hmode]

/-- The first request of a frame write carries FBUF's checksum (40_protocol_engine.md R113). -/
theorem prepare_latch_frameWrite (fidx : FrameIndex) (s : State) :
    (prepare (latch s.params.opcodes.frameWrite fidx s)).req =
      pack s.params.layout ⟨s.params.opcodes.frameWrite, fidx, csum s.params.csum s.fbufFrame, 0⟩ := by
  simp [requestWord, requestChecksum, payload_latch]

/-- Settles O8: the fixed words by evaluation, the built request by `prepare_latch_frameWrite`. -/
theorem workedEncodingsDecode : Obligations.WorkedEncodingsDecode := by
  unfold Obligations.WorkedEncodingsDecode
  refine ⟨by decide, by decide, by decide, by decide, by rfl, by decide, by decide, by decide, by decide, by decide, ?_⟩
  intro s hlayout hopcodes hcsum
  have hreq := prepare_latch_frameWrite 100 s
  rw [hlayout, hopcodes, hcsum] at hreq
  exact hreq.trans (by decide)

end Sys2Proof.Machine

/-! ### The transitions of the engine (40_protocol_engine.md R116 to R121)

Each control state has one transition. CHECK's depends on two questions, whether the attempt succeeded and whether an
attempt is left; an answered exchange has the name `State.answered`. -/

namespace Sys2Proof.Machine

theorem step_reset {s : State} (hr : s.resetPin = true) : step s = .next (blockReset s) := by
  simp only [step, fetch, hr, if_true]

theorem step_command {s : State} {w : Word} {rest : List Word} {i : Instr} (hr : s.resetPin = false)
    (hidle : s.fsm = .idle) (hport : s.port = w :: rest) (hdec : decode w = .instr i) :
    step s = exec i { s with port := rest } :=
  (stepRunsTheFetchedInstruction s i hr).1 w rest hidle hport hdec

theorem step_prep {s : State} (hr : s.resetPin = false) (hprep : s.fsm = .prep) : step s = .next (prepare s) := by
  simp [step, fetch, hr, hprep]

theorem step_check {s : State} (hr : s.resetPin = false) (hcheck : s.fsm = .check) : step s = .next (judge s) := by
  simp [step, fetch, hr, hcheck]

theorem Fsm.busy_cases {f : Fsm} (h : f ≠ .idle) : f = .prep ∨ f = .xchg ∨ f = .check := by
  cases f with
  | idle => exact absurd rfl h
  | prep => exact .inl rfl
  | xchg => exact .inr (.inl rfl)
  | check => exact .inr (.inr rfl)

/-- Outside IDLE a step is the one transition of its control state. -/
theorem step_busy {s t : State} (hr : s.resetPin = false) (hbusy : s.fsm ≠ .idle) (h : step s = .next t) :
    (s.fsm = .prep ∧ t = prepare s) ∨ (s.fsm = .xchg ∧ t = exchange s.req s) ∨ (s.fsm = .check ∧ t = judge s) := by
  obtain hfsm | hfsm | hfsm := Fsm.busy_cases hbusy
  · exact .inl ⟨hfsm, Host.Outcome.next.inj (h.symm.trans (step_prep hr hfsm))⟩
  · exact .inr (.inl ⟨hfsm, Host.Outcome.next.inj (h.symm.trans (step_xchg hr hfsm))⟩)
  · exact .inr (.inr ⟨hfsm, Host.Outcome.next.inj (h.symm.trans (step_check hr hfsm))⟩)

/-! ### EXEC's acceptance (R116) -/

theorem exec_exec_on {s : State} (on : s.powered = true) (opc : BitVec 8) (fidx : FrameIndex) :
    exec (.exec opc fidx) s = .next (latch opc fidx s) := by
  simp only [exec, execExec, on, if_true]

theorem exec_exec_off {s : State} (off : s.powered = false) (opc : BitVec 8) (fidx : FrameIndex) :
    exec (.exec opc fidx) s = .next (raise .notPoweredOn 0 s) := by
  simp [exec, execExec, off]

/-- In IDLE, failing is writing the response registers. -/
theorem raise_idle {s : State} (hidle : s.fsm = .idle) (cause : Cause) (data : Word) :
    raise cause data s = { s with rspStatus := statusWord true false cause, rspData := data } := by
  rw [raise, ← hidle]

/-- Settles O30, by the power check of R116. -/
theorem execLatchesAndStarts : Obligations.ExecLatchesAndStarts := by
  unfold Obligations.ExecLatchesAndStarts
  exact fun s opc fidx => ⟨fun on => exec_exec_on on opc fidx, fun off => exec_exec_off off opc fidx⟩

/-! ### An answered exchange (R118, R120) -/

/-- The state after the bus answered the outstanding exchange with `a`, the bus being `b` from then on. -/
def State.answered (a : BusAnswer) (b : BusSource) (s : State) : State :=
  { s with bus := b, fbuf := Memory.ofFrame a.frame, lastRsp := a.word, att := satInc s.att,
           lastAttempts := satInc s.att, fsm := .check }

@[simp] theorem answered_resetPin (a : BusAnswer) (b : BusSource) (s : State) :
    (s.answered a b).resetPin = s.resetPin := rfl
@[simp] theorem answered_fsm (a : BusAnswer) (b : BusSource) (s : State) : (s.answered a b).fsm = .check := rfl
@[simp] theorem answered_bus (a : BusAnswer) (b : BusSource) (s : State) : (s.answered a b).bus = b := rfl
@[simp] theorem answered_params (a : BusAnswer) (b : BusSource) (s : State) : (s.answered a b).params = s.params := rfl
@[simp] theorem answered_port (a : BusAnswer) (b : BusSource) (s : State) : (s.answered a b).port = s.port := rfl
@[simp] theorem answered_lastRsp (a : BusAnswer) (b : BusSource) (s : State) : (s.answered a b).lastRsp = a.word := rfl
@[simp] theorem answered_fbuf (a : BusAnswer) (b : BusSource) (s : State) :
    (s.answered a b).fbuf = Memory.ofFrame a.frame := rfl
@[simp] theorem answered_att (a : BusAnswer) (b : BusSource) (s : State) : (s.answered a b).att = satInc s.att := rfl
@[simp] theorem answered_lastAttempts (a : BusAnswer) (b : BusSource) (s : State) :
    (s.answered a b).lastAttempts = satInc s.att := rfl
@[simp] theorem answered_retryLimit (a : BusAnswer) (b : BusSource) (s : State) :
    (s.answered a b).retryLimit = s.retryLimit := rfl
@[simp] theorem answered_retryUnbounded (a : BusAnswer) (b : BusSource) (s : State) :
    (s.answered a b).retryUnbounded = s.retryUnbounded := rfl

/-- After an attempt FBUF is the frame the bus returned (R118). -/
@[simp] theorem answered_fbufFrame (a : BusAnswer) (b : BusSource) (s : State) :
    (s.answered a b).fbufFrame = a.frame :=
  toFrame_ofFrame s.resets a.frame

theorem step_answered {s : State} {a : BusAnswer} {b : BusSource} (hr : s.resetPin = false) (hxchg : s.fsm = .xchg)
    (hans : busNext s.bus s.req (payload s) = some (a, b)) : step s = .next (s.answered a b) :=
  (step_xchg hr hxchg).trans (congrArg _ (exchange_of_answer hans))

theorem step_unanswered {s : State} (hr : s.resetPin = false) (hxchg : s.fsm = .xchg)
    (hsilent : busNext s.bus s.req (payload s) = none) : step s = .next s :=
  (step_xchg hr hxchg).trans (congrArg _ (exchange_of_silence hsilent))

theorem busNext_of_listed {b : BusSource} {a : BusAnswer} {l : List BusAnswer} (h : b.listed = a :: l) (w : Word)
    (p : Frame) : busNext b w p = some (a, { b with listed := l }) := by
  simp only [busNext, h]

/-! ### Judging an attempt (R115, R119) -/

theorem success_frameRead_iff {p : Params} {w : Word} (h : (unpack p.layout w).opcode = p.opcodes.frameRead)
    (b : Frame) : success p w b = true ↔ csum p.csum b = (unpack p.layout w).checksum := by
  simp [success, h]

theorem success_other_iff {p : Params} {w : Word} (h : (unpack p.layout w).opcode ≠ p.opcodes.frameRead)
    (b : Frame) : success p w b = true ↔ (unpack p.layout w).returnCode = 0 := by
  simp [success, h]

theorem exhausted_eq_false_iff (s : State) :
    exhausted s = false ↔ s.retryUnbounded = true ∨ s.att.toNat ≤ s.retryLimit.toNat := by
  rw [← Bool.not_eq_true, exhausted_iff, not_and_or, Bool.not_eq_false, not_lt]

theorem judge_success {s : State} (h : success s.params s.lastRsp s.fbufFrame = true) :
    judge s = respond false s.lastRsp s := by
  simp only [judge, h, if_true]

theorem judge_retry {s : State} (h : success s.params s.lastRsp s.fbufFrame = false)
    (hleft : s.retryUnbounded = true ∨ s.att.toNat ≤ s.retryLimit.toNat) : judge s = { s with fsm := .prep } := by
  simp [judge, h, (exhausted_eq_false_iff s).mpr hleft]

theorem judge_exhausted {s : State} (h : success s.params s.lastRsp s.fbufFrame = false)
    (hbounded : s.retryUnbounded = false) (hpast : s.retryLimit.toNat < s.att.toNat) :
    judge s = raise .retryExhausted s.lastRsp s := by
  simp [judge, h, (exhausted_iff s).mpr ⟨hbounded, hpast⟩]

@[simp] theorem failFlag_statusWord (fail hit : Bool) (cause : Cause) :
    failFlag (statusWord fail hit cause) = fail := by
  cases fail <;> cases hit <;> cases cause <;> rfl

/-- CHECK ends the EXEC without a failure exactly when the attempt succeeded (R115, R121). -/
theorem judge_ends_well_iff (s : State) :
    ((judge s).fsm = .idle ∧ failFlag (judge s).rspStatus = false) ↔
      success s.params s.lastRsp s.fbufFrame = true := by
  obtain ⟨hs, hj⟩ | ⟨hs, -, hj⟩ | ⟨hs, -, hj⟩ := judge_cases s <;> simp [hs, hj]

/-- A command that is not EXEC ends in its own step (R121). -/
theorem exec_command_ends {i : Instr} {s t : State} (hi : i.isCommand = true) (hne : ∀ opc fidx, i ≠ .exec opc fidx)
    (h : exec i s = .next t) : t.fsm = .idle := by
  obtain ⟨opc, fidx, hexec, -⟩ | ⟨_, rfl, -⟩ | ⟨_, -, -, rfl⟩ | ⟨_, _, _, rfl, -⟩ := exec_command_cases hi h
  · exact absurd hexec (hne opc fidx)
  · rfl
  · rfl
  · rfl

theorem exec_command_next {i : Instr} (hi : i.isCommand = true) (s : State) : ∃ t, exec i s = .next t := by
  cases i with
  | pwrOn => simp only [exec, execPwrOn]; split <;> exact ⟨_, rfl⟩
  | pwrOff => simp only [exec, execPwrOff]; split <;> exact ⟨_, rfl⟩
  | exec => simp only [exec, execExec]; split <;> exact ⟨_, rfl⟩
  | clookup => simp only [exec, execClookup]; split <;> [split; skip] <;> exact ⟨_, rfl⟩
  | cupsert => simp only [exec, execCupsert]; split <;> exact ⟨_, rfl⟩
  | alloc => simp only [exec, execAlloc]; split <;> [split; skip] <;> exact ⟨_, rfl⟩
  | fbrd | fbwr => exact ⟨_, rfl⟩
  | csrr => simp only [exec, execCsrr]; split <;> exact ⟨_, rfl⟩
  | csrw => simp only [exec, execCsrw]; split <;> exact ⟨_, rfl⟩
  | opDeviceInit | opZeroAll | opPowerOff | opFrameRead | opFrameWrite => cases hi

/-- Settles O11, one row of R121 after the other. -/
theorem engineFollowsTheTransitionTable : Obligations.EngineFollowsTheTransitionTable := by
  unfold Obligations.EngineFollowsTheTransitionTable
  intro s hr
  refine ⟨fun w rest opc fidx hidle hport hdec on => ?accepted, fun w rest hidle hport _ hillegal => ?illegal,
    fun w rest opc fidx hidle hport hdec off => ?off, fun w rest i hidle hport hdec hne => ?otherCommand,
    fun hprep => step_prep hr hprep, fun a b' hxchg hans => step_answered hr hxchg hans,
    fun hxchg hsilent => step_unanswered hr hxchg hsilent, fun hcheck hs => ?success, fun hcheck hs hleft => ?retry,
    fun hcheck hs hbounded hpast => ?exhausted⟩
  case accepted =>
    exact (step_command hr hidle hport hdec).trans (exec_exec_on (s := { s with port := rest }) on opc fidx)
  case illegal =>
    obtain ⟨why, hdec⟩ := hillegal
    rw [step_illegal hr hidle hport hdec, raise_badCommand_idle (s := { s with port := rest }) hidle]
  case off =>
    rw [step_command hr hidle hport hdec, exec_exec_off (s := { s with port := rest }) off,
      raise_idle (s := { s with port := rest }) hidle]
    rfl
  case otherCommand =>
    have hi := decode_isCommand hdec
    obtain ⟨t, ht⟩ := exec_command_next hi { s with port := rest }
    exact ⟨t, (step_command hr hidle hport hdec).trans ht, ht, exec_command_ends hi hne ht⟩
  case success => rw [step_check hr hcheck, judge_success hs]; rfl
  case retry => rw [step_check hr hcheck, judge_retry hs hleft]
  case exhausted => rw [step_check hr hcheck, judge_exhausted hs hbounded hpast]; rfl

/-- Settles O32: the two rules of R115, read off the packed fields, and CHECK's decision. -/
theorem successIsJudgedByTheReturnedOpcode : Obligations.SuccessIsJudgedByTheReturnedOpcode := by
  unfold Obligations.SuccessIsJudgedByTheReturnedOpcode
  refine ⟨fun p w b => ⟨fun h => success_frameRead_iff h b, fun h => success_other_iff h b, fun f => ?_⟩, ?_⟩
  · simp only [success, unpack_pack]
  · exact fun s hr hcheck => ⟨judge s, step_check hr hcheck, judge_ends_well_iff s⟩

/-- CHECK commutes with a change of fields that it neither reads nor writes. -/
theorem judge_comm {f : State → State} {s : State}
    (hsuccess : success (f s).params (f s).lastRsp (f s).fbufFrame = success s.params s.lastRsp s.fbufFrame)
    (hexhausted : exhausted (f s) = exhausted s)
    (hrespond : respond false (f s).lastRsp (f s) = f (respond false s.lastRsp s))
    (hraise : raise .retryExhausted (f s).lastRsp (f s) = f (raise .retryExhausted s.lastRsp s))
    (hretry : { f s with fsm := .prep } = f { s with fsm := .prep }) : judge (f s) = f (judge s) := by
  simp only [judge, hsuccess, hexhausted, hrespond, hraise, hretry, apply_ite f]

/-- CHECK does not look at the latched operands (R115). -/
theorem judge_with_latches (s : State) (opc : BitVec 8) (fidx : FrameIndex) :
    judge { s with lOpc := opc, lFidx := fidx } = { judge s with lOpc := opc, lFidx := fidx } :=
  judge_comm (f := fun s => { s with lOpc := opc, lFidx := fidx }) rfl rfl rfl rfl rfl

/-- Settles O33: what `success` reads of the answer in its two cases, and `judge_with_latches`. -/
theorem successCornerCases : Obligations.SuccessCornerCases := by
  unfold Obligations.SuccessCornerCases
  intro p r b
  refine ⟨fun h rc => ?_, fun h c b2 => ?_, fun h hrc => ?_, fun s opc fidx hr hcheck => ?_⟩
  · simp [success, unpack_pack, h]
  · simp [success, unpack_pack, h]
  · simpa [success, unpack_pack, h] using hrc
  · refine ⟨judge s, step_check hr hcheck, ?_⟩
    rw [step_check (s := { s with lOpc := opc, lFidx := fidx }) hr hcheck, judge_with_latches]

@[simp] theorem judge_fbuf (s : State) : (judge s).fbuf = s.fbuf := by
  obtain ⟨-, hj⟩ | ⟨-, -, hj⟩ | ⟨-, -, hj⟩ := judge_cases s <;> simp [hj]

/-- Settles O34: the answered exchange writes the whole frame, and CHECK writes no byte of it. -/
theorem fbufHoldsTheReturnedFrame : Obligations.FbufHoldsTheReturnedFrame := by
  unfold Obligations.FbufHoldsTheReturnedFrame
  intro s t a b' hr hxchg hans h
  obtain rfl : s.answered a b' = t := Host.Outcome.next.inj ((step_answered hr hxchg hans).symm.trans h)
  refine ⟨answered_fbufFrame a b' s, fun k => ?_, fun u hu => ?_⟩
  · rw [← toFrame_ofFrame s.resets a.frame, toFrame_getElem? s.resets (ofFrame_wf a.frame) k.isLt]
    rfl
  · obtain rfl : judge (s.answered a b') = u :=
      Host.Outcome.next.inj ((step_check (s := s.answered a b') hr rfl).symm.trans hu)
    exact judge_fbuf _

/-! ### What an EXEC in progress keeps (R116, R122, R124) -/

/-- `t` has the latched operands, the retry configuration and the environment's inputs of `s`, and its response
registers too while the EXEC goes on (10_state.md R38). -/
structure KeepsExec (s t : State) : Prop where
  lOpc : t.lOpc = s.lOpc
  lFidx : t.lFidx = s.lFidx
  save : t.save = s.save
  retryLimit : t.retryLimit = s.retryLimit
  retryUnbounded : t.retryUnbounded = s.retryUnbounded
  port : t.port = s.port
  resetPin : t.resetPin = s.resetPin
  response : t.fsm ≠ .idle → t.rspStatus = s.rspStatus ∧ t.rspData = s.rspData

theorem prepare_keepsExec (s : State) : KeepsExec s (prepare s) :=
  ⟨rfl, rfl, rfl, rfl, rfl, rfl, rfl, fun _ => ⟨rfl, rfl⟩⟩

theorem exchange_keepsExec (w : Word) (s : State) : KeepsExec s (exchange w s) := by
  obtain ⟨-, hx⟩ | ⟨_, _, -, hx⟩ := exchange_cases w s
  all_goals rw [hx]; exact ⟨rfl, rfl, rfl, rfl, rfl, rfl, rfl, fun _ => ⟨rfl, rfl⟩⟩

theorem judge_keepsExec (s : State) : KeepsExec s (judge s) := by
  obtain ⟨-, hj⟩ | ⟨-, -, hj⟩ | ⟨-, -, hj⟩ := judge_cases s <;> rw [hj]
  · exact ⟨rfl, rfl, rfl, rfl, rfl, rfl, rfl, fun hne => absurd rfl hne⟩
  · exact ⟨rfl, rfl, rfl, rfl, rfl, rfl, rfl, fun hne => absurd rfl hne⟩
  · exact ⟨rfl, rfl, rfl, rfl, rfl, rfl, rfl, fun _ => ⟨rfl, rfl⟩⟩

/-- A step of an EXEC in progress keeps the host's state and its own setting. -/
theorem step_busy_keeps {s t : State} (hr : s.resetPin = false) (hbusy : s.fsm ≠ .idle) (h : step s = .next t) :
    KeepsHostState s t ∧ KeepsExec s t := by
  obtain ⟨-, rfl⟩ | ⟨-, rfl⟩ | ⟨-, rfl⟩ := step_busy hr hbusy h
  · exact ⟨prepare_keepsHostState s, prepare_keepsExec s⟩
  · exact ⟨exchange_keepsHostState _ s, exchange_keepsExec _ s⟩
  · exact ⟨judge_keepsHostState s, judge_keepsExec s⟩

/-- Settles O38, by what a step of an EXEC in progress keeps. -/
theorem engineStepsLeaveTheRestAlone : Obligations.EngineStepsLeaveTheRestAlone := by
  unfold Obligations.EngineStepsLeaveTheRestAlone
  intro s t hr hbusy h
  obtain ⟨hhost, hexec⟩ := step_busy_keeps hr hbusy h
  exact ⟨hexec.port, hhost.ce, hhost.ffc, hhost.powered, hhost.cfgFault, hhost.capacity, hexec.retryLimit,
    hexec.retryUnbounded, hexec.save, hexec.response⟩

/-- The request unpacks to the latched operands, its checksum and return code 0 (R112, R113). -/
theorem unpack_requestWord (s : State) :
    unpack s.params.layout (requestWord s) = ⟨s.lOpc, s.lFidx, requestChecksum s, 0⟩ :=
  unpack_pack _ _

/-- Settles O35: no step of an EXEC writes the latches, and PREP packs them. -/
theorem latchedOperandsAreSentOnEveryAttempt : Obligations.LatchedOperandsAreSentOnEveryAttempt := by
  unfold Obligations.LatchedOperandsAreSentOnEveryAttempt
  intro s t hr h
  refine ⟨fun hbusy => ?_, fun hprep => ?_⟩
  · obtain ⟨-, hexec⟩ := step_busy_keeps hr hbusy h
    exact ⟨hexec.lOpc, hexec.lFidx⟩
  · rw [step_prep hr hprep] at h
    cases h
    simp [unpack_requestWord]

/-- Only a frame write's request carries a checksum (R113; 30_encoding.md R94). -/
theorem requestChecksum_ne_zero {s : State} (h : requestChecksum s ≠ 0) : s.lOpc = s.params.opcodes.frameWrite :=
  of_not_not fun hne => h (if_neg hne)

/-- Settles O36: the request by `unpack_requestWord`, FBUF by the answered exchange, success by
`judge_ends_well_iff`. -/
theorem promisesForEveryOpcode : Obligations.PromisesForEveryOpcode := by
  unfold Obligations.PromisesForEveryOpcode
  refine ⟨fun s t hr hprep h => ?_, fun s t a b' hr hxchg hans h => ?_,
    fun s s' t t' hr hr' hcheck hcheck' hparams hrsp hfbuf h h' => ?_⟩
  · rw [step_prep hr hprep] at h
    cases h
    rw [prepare_req, unpack_requestWord]
    exact ⟨rfl, rfl, rfl, requestChecksum_ne_zero⟩
  · rw [step_answered hr hxchg hans] at h
    cases h
    exact answered_fbufFrame a b' s
  · rw [step_check hr hcheck] at h
    rw [step_check hr' hcheck'] at h'
    cases h
    cases h'
    rw [judge_ends_well_iff, judge_ends_well_iff, hparams, hrsp, hfbuf]

/-! ### The engine does not see the cache (20_memory.md R72) -/

theorem exchange_with_ce (w : Word) (s : State) (ce : List CacheEntry) :
    exchange w { s with ce := ce } = { exchange w s with ce := ce } := by
  obtain ⟨hsilent, hx⟩ | ⟨a, b', hans, hx⟩ := exchange_cases w s <;> rw [hx]
  · exact exchange_of_silence hsilent
  · exact exchange_of_answer hans

theorem judge_with_ce (s : State) (ce : List CacheEntry) : judge { s with ce := ce } = { judge s with ce := ce } :=
  judge_comm (f := fun s => { s with ce := ce }) rfl rfl rfl rfl rfl

/-- Settles O39: each of the three transitions commutes with a change of CE. -/
theorem engineDoesNotSeeTheCache : Obligations.EngineDoesNotSeeTheCache := by
  unfold Obligations.EngineDoesNotSeeTheCache
  intro s ce hr hbusy
  obtain hfsm | hfsm | hfsm := Fsm.busy_cases hbusy
  · exact ⟨prepare s, step_prep hr hfsm, step_prep (s := { s with ce := ce }) hr hfsm⟩
  · refine ⟨exchange s.req s, step_xchg hr hfsm, ?_⟩
    rw [step_xchg (s := { s with ce := ce }) hr hfsm, exchange_with_ce]
  · refine ⟨judge s, step_check hr hfsm, ?_⟩
    rw [step_check (s := { s with ce := ce }) hr hfsm, judge_with_ce]

/-- Settles O40, by the step lemma of the invariant. -/
theorem everyStepKeepsTheAttemptBound : Obligations.EveryStepKeepsTheAttemptBound := by
  unfold Obligations.EveryStepKeepsTheAttemptBound
  exact fun s t hb h => step_keeps_attemptsBounded hb h

end Sys2Proof.Machine

/-! ### What a command and a request write (40_protocol_engine.md R116, R118; 41_bus_opcodes.md R147) -/

namespace Sys2Proof.Machine

/-- What a command that ends in its own step writes beside the response registers: `s` before it, `s'` after it. -/
inductive CommandEffect (s : State) : Instr → State → Prop
  | nothing (i : Instr) : CommandEffect s i s
  | turnOn : CommandEffect s .pwrOn { s with powered := true, ce := [], ffc := 0 }
  | turnOff : CommandEffect s .pwrOff { s with ce := [], powered := false }
  | lookup (sid : StoreId) (fidx : FrameIndex) (m : Memory) : CommandEffect s (.clookup sid fidx) { s with fbuf := m }
  | cache (sid : StoreId) (fidx : FrameIndex) :
      CommandEffect s (.cupsert sid fidx) { s with ce := (upsert sid fidx s).1 }
  | counter (have_ : BitVec 20) (need : BitVec 32) (ffc : BitVec 17) :
      CommandEffect s (.alloc have_ need) { s with ffc := ffc }
  | byte (a : BitVec 12) (v : Byte) : CommandEffect s (.fbwr a v) (s.writeFbuf a v)
  | capacity (v : BitVec 48) : CommandEffect s (.csrw 0x00 v) { s with capacity := capField v }
  | lateCapacity (v : BitVec 48) : CommandEffect s (.csrw 0x00 v) { s with cfgFault := true }
  | retry (v : BitVec 48) :
      CommandEffect s (.csrw 0x01 v) { s with retryLimit := limitField v, retryUnbounded := unboundedField v }

/-- A command starts the engine, or ends in its own step: one effect, the response registers, and IDLE (R121). -/
theorem exec_command_effect {i : Instr} {s t : State} (hi : i.isCommand = true) (h : exec i s = .next t) :
    (∃ opc fidx, i = .exec opc fidx ∧ t = latch opc fidx s) ∨
    ∃ s' status data, CommandEffect s i s' ∧ t = { s' with fsm := .idle, rspStatus := status, rspData := data } := by
  obtain ⟨opc, fidx, hexec, -, ht⟩ | ⟨_, rfl, -⟩ | ⟨v, rfl, -, rfl⟩ | ⟨hit, data, s', rfl, hs'⟩ :=
    exec_command_cases hi h
  · exact .inl ⟨opc, fidx, hexec, ht⟩
  · exact .inr ⟨s, _, _, .nothing i, rfl⟩
  · exact .inr ⟨_, _, _, .lateCapacity v, rfl⟩
  · refine .inr ⟨s', _, _, ?_, rfl⟩
    obtain rfl | ⟨rfl, -, rfl⟩ | ⟨rfl, -, rfl⟩ | ⟨sid, fidx, _, e, rfl, -, -, rfl⟩ | ⟨sid, fidx, rfl, -, rfl⟩ |
      ⟨have_, need, rfl, -, -, rfl⟩ | ⟨a, v, rfl, rfl⟩ | ⟨v, rfl, -, -, -, rfl⟩ | ⟨v, rfl, rfl⟩ := hs'
    · exact .nothing i
    · exact .turnOn
    · exact .turnOff
    · exact .lookup sid fidx e.data
    · exact .cache sid fidx
    · exact .counter have_ need _
    · exact .byte a v
    · exact .capacity v
    · exact .retry v

/-- `s'` has the engine's registers and the environment of `s`. -/
structure KeepsEngine (s s' : State) : Prop where
  lastRsp : s'.lastRsp = s.lastRsp
  lastAttempts : s'.lastAttempts = s.lastAttempts
  req : s'.req = s.req
  lOpc : s'.lOpc = s.lOpc
  lFidx : s'.lFidx = s.lFidx
  att : s'.att = s.att
  save : s'.save = s.save
  params : s'.params = s.params
  port : s'.port = s.port
  bus : s'.bus = s.bus
  resets : s'.resets = s.resets
  resetPin : s'.resetPin = s.resetPin

/-- The engine's registers and the environment are in no command's effect. -/
theorem CommandEffect.keepsEngine {s s' : State} {i : Instr} (he : CommandEffect s i s') : KeepsEngine s s' := by
  cases he
  all_goals exact ⟨rfl, rfl, rfl, rfl, rfl, rfl, rfl, rfl, rfl, rfl, rfl, rfl⟩

section
variable {s s' : State} {i : Instr} (he : CommandEffect s i s')
include he

theorem CommandEffect.powered (hon : i ≠ .pwrOn) (hoff : i ≠ .pwrOff) : s'.powered = s.powered := by
  cases he with
  | turnOn => exact absurd rfl hon
  | turnOff => exact absurd rfl hoff
  | _ => rfl

theorem CommandEffect.configuration (hcsrw : ∀ n v, i ≠ .csrw n v) :
    s'.cfgFault = s.cfgFault ∧ s'.capacity = s.capacity ∧ s'.retryLimit = s.retryLimit ∧
      s'.retryUnbounded = s.retryUnbounded := by
  cases he with
  | capacity v | lateCapacity v | retry v => exact absurd rfl (hcsrw _ v)
  | _ => exact ⟨rfl, rfl, rfl, rfl⟩

theorem CommandEffect.ffc (hon : i ≠ .pwrOn) (halloc : ∀ h n, i ≠ .alloc h n) : s'.ffc = s.ffc := by
  cases he with
  | turnOn => exact absurd rfl hon
  | counter h n => exact absurd rfl (halloc h n)
  | _ => rfl

theorem CommandEffect.ce (hon : i ≠ .pwrOn) (hoff : i ≠ .pwrOff) (hcupsert : ∀ d f, i ≠ .cupsert d f) :
    s'.ce = s.ce := by
  cases he with
  | turnOn => exact absurd rfl hon
  | turnOff => exact absurd rfl hoff
  | cache d f => exact absurd rfl (hcupsert d f)
  | _ => rfl

/-- FBWR writes the byte of its address, CLOOKUP any byte. -/
theorem CommandEffect.readFbuf (hclookup : ∀ d f, i ≠ .clookup d f) {b : BitVec 12} (hfbwr : ∀ v, i ≠ .fbwr b v) :
    s'.readFbuf b = s.readFbuf b := by
  cases he with
  | lookup d f => exact absurd rfl (hclookup d f)
  | byte a v =>
    have hne : b.toNat ≠ a.toNat := fun hba => hfbwr v (by rw [BitVec.eq_of_toNat_eq hba])
    exact (read_write s.resets s.fbuf a.toNat b.toNat v).trans (if_neg hne)
  | _ => rfl

end

/-- Settles O45: EXEC latches and writes nothing else; every other command has one effect. -/
theorem commandsWriteOnlyTheirState : Obligations.CommandsWriteOnlyTheirState := by
  unfold Obligations.CommandsWriteOnlyTheirState
  intro i s t hi h
  obtain ⟨opc, fidx, rfl, rfl⟩ | ⟨s', _, _, he, rfl⟩ := exec_command_effect hi h
  · exact ⟨rfl, rfl, rfl, rfl, rfl, rfl, rfl, rfl, fun hne => absurd rfl (hne opc fidx), fun _ _ => rfl,
      fun _ => ⟨rfl, rfl, rfl, rfl⟩, fun _ _ => rfl, fun _ _ _ => rfl, fun _ _ _ => rfl⟩
  · have hk := he.keepsEngine
    exact ⟨hk.lastRsp, hk.lastAttempts, hk.req, hk.params, hk.port, hk.bus, hk.resets, hk.resetPin,
      fun _ => ⟨hk.lOpc, hk.lFidx, hk.att, hk.save, rfl⟩, he.powered, he.configuration, he.ffc, he.ce,
      fun hclookup _ hfbwr => he.readFbuf hclookup hfbwr⟩

/-- Every bus request is the exchange of its word (41_bus_opcodes.md R140 to R144). -/
theorem exec_request {i : Instr} (hi : i.isCommand = false) (s : State) :
    exec i s = .next (exchange (encode s.params i) s) := by
  cases i with
  | opDeviceInit | opZeroAll | opPowerOff | opFrameRead | opFrameWrite => rfl
  | _ => cases hi

/-- Settles O46, by the two ways of an exchange. -/
theorem busRequestsWriteOnlyTheEngine : Obligations.BusRequestsWriteOnlyTheEngine := by
  unfold Obligations.BusRequestsWriteOnlyTheEngine
  intro i s t hi h
  rw [exec_request hi] at h
  cases h
  obtain ⟨-, hx⟩ | ⟨_, _, -, hx⟩ := exchange_cases (encode s.params i) s <;> rw [hx]
  · exact ⟨rfl, .inl rfl⟩
  · exact ⟨rfl, .inr rfl⟩

end Sys2Proof.Machine

/-! ### The packed register and the checksum (40_protocol_engine.md R111, R114) -/

namespace Sys2Proof.Machine

/-- A word is the packing of `r` if `r` is what it unpacks to (R112). -/
theorem pack_eq_of_unpack {l : RegLayout} {w : Word} {r : BusReg} (h : unpack l w = r) : pack l r = w := by
  rw [← h, pack_unpack]

/-- Each of four parts put side by side is read back where it stands, the lowest first. -/
theorem extractLsb'_four_parts {l m n k : Nat} (x : BitVec l) (y : BitVec m) (z : BitVec n) (v : BitVec k) :
    (x ++ y ++ z ++ v).extractLsb' 0 k = v ∧ (x ++ y ++ z ++ v).extractLsb' k n = z ∧
    (x ++ y ++ z ++ v).extractLsb' (k + n) m = y ∧ (x ++ y ++ z ++ v).extractLsb' (k + n + m) l = x := by
  refine ⟨BitVec.extractLsb'_append_eq_right, ?_, ?_, ?_⟩
  · rw [BitVec.extractLsb'_append_eq_of_le le_rfl, Nat.sub_self, BitVec.extractLsb'_append_eq_right]
  · rw [BitVec.extractLsb'_append_eq_of_le (by omega), Nat.add_sub_cancel_left,
      BitVec.extractLsb'_append_eq_of_le le_rfl, Nat.sub_self, BitVec.extractLsb'_append_eq_right]
  · rw [BitVec.extractLsb'_append_eq_of_le (by omega), BitVec.extractLsb'_append_eq_of_le (by omega),
      show k + n + m - k - n = m by omega, BitVec.extractLsb'_append_eq_left]

theorem unpack_append_lsbFirst (r : BusReg) :
    unpack .lsbFirst (r.returnCode ++ r.checksum ++ r.frame ++ r.opcode) = r := by
  obtain ⟨hopcode, hframe, hchecksum, hreturn⟩ := extractLsb'_four_parts r.returnCode r.checksum r.frame r.opcode
  exact (BusReg.mk.injEq ..).mpr ⟨hopcode, hframe, hchecksum, hreturn⟩

theorem unpack_append_msbFirst (r : BusReg) :
    unpack .msbFirst (r.opcode ++ r.frame ++ r.checksum ++ r.returnCode) = r := by
  obtain ⟨hreturn, hchecksum, hframe, hopcode⟩ := extractLsb'_four_parts r.opcode r.frame r.checksum r.returnCode
  exact (BusReg.mk.injEq ..).mpr ⟨hopcode, hframe, hchecksum, hreturn⟩

/-- Settles O4: the shifted forms are the definition; each concatenation unpacks to the fields it is made of. -/
theorem packPlacesTheFields : Obligations.PackPlacesTheFields := by
  unfold Obligations.PackPlacesTheFields
  exact fun r => ⟨pack_eq_of_unpack (unpack_append_lsbFirst r), rfl, pack_eq_of_unpack (unpack_append_msbFirst r), rfl,
    by decide⟩

theorem csumSum_eq_sum (f : Frame) : csumSum f = BitVec.ofNat 32 (f.toList.map fun b => b.toNat).sum := by
  rw [csumSum, List.sum_eq_foldl, List.foldl_map]

theorem toList_frameOf (f : Nat → Byte) : (frameOf f).toList = (List.range 4096).map f := by
  simp [frameOf, Vector.toList]

/-- The checksum of a frame given byte by byte. -/
theorem csumSum_frameOf (f : Nat → Byte) :
    csumSum (frameOf f) = BitVec.ofNat 32 (∑ k ∈ Finset.range 4096, (f k).toNat) := by
  rw [csumSum_eq_sum, toList_frameOf, List.map_map, Finset.sum_eq_multiset_sum, Finset.range_val, Multiset.range,
    Multiset.map_coe, Multiset.sum_coe, Function.comp_def]

theorem csumSum_const (b : Byte) : csumSum (frameOf fun _ => b) = BitVec.ofNat 32 (4096 * b.toNat) := by
  rw [csumSum_frameOf, Finset.sum_const, Finset.card_range, smul_eq_mul]

/-- A frame whose bytes from 1 up are 0 sums to its byte 0. -/
theorem csumSum_first (b : Byte) : csumSum (frameOf fun k => if k = 0 then b else 0) = BitVec.ofNat 32 b.toNat := by
  rw [csumSum_frameOf, Finset.sum_eq_single_of_mem 0 (by simp) fun k _ hk => by rw [if_neg hk]; rfl, if_pos rfl]

/-- Settles O29: the sum, and the examples as the constant frames and the frame of one byte. -/
theorem defaultChecksumIsTheSumOfTheBytes : Obligations.DefaultChecksumIsTheSumOfTheBytes := by
  unfold Obligations.DefaultChecksumIsTheSumOfTheBytes
  exact ⟨csumSum_eq_sum, csumSum_const 0x00, csumSum_const 0x01, csumSum_const 0xFF, csumSum_first 0x0A⟩

end Sys2Proof.Machine

/-! ### Runs of the retry loop (40_protocol_engine.md R119, R128, R129)

An attempt is three steps: PREP, the answered exchange, CHECK. `retryStart` is PREP again after a failed one. -/

namespace Sys2Proof.Machine

theorem runsTo_zero (s : State) : RunsTo 0 s s := rfl

theorem runsTo_succ {s t u : State} {n : Nat} (h : step s = .next t) (hrun : RunsTo n t u) : RunsTo (n + 1) s u :=
  (runFor_succ n h).trans hrun

/-- What every step keeps holds after every number of steps. -/
theorem exists_runsTo_of_invariant {P : State → Prop} (hstep : ∀ s, P s → ∃ t, step s = .next t ∧ P t) (n : Nat) :
    ∀ s, P s → ∃ t, RunsTo n s t ∧ P t := by
  induction n with
  | zero => exact fun s hs => ⟨s, runsTo_zero s, hs⟩
  | succ n ih =>
    intro s hs
    obtain ⟨t, hst, ht⟩ := hstep s hs
    obtain ⟨u, htu, hu⟩ := ih t ht
    exact ⟨u, runsTo_succ hst htu, hu⟩

/-! ### A stuck engine (60_exceptions.md R275 (3)) -/

theorem stuck_iff (s : State) : s.stuck = true ↔ s.fsm = .xchg ∧ busNext s.bus s.req (payload s) = none := by
  simp [State.stuck, State.busSilent]

/-- Settles O44: a step in XCHG without an answer changes nothing, and block reset comes before it. -/
theorem stuckEngineStaysStuck : Obligations.StuckEngineStaysStuck := by
  unfold Obligations.StuckEngineStaysStuck
  intro s hstuck
  obtain ⟨hxchg, hsilent⟩ := (stuck_iff s).mp hstuck
  refine ⟨fun hr n => ?_, blockReset { s with resetPin := true }, step_reset rfl, rfl⟩
  obtain ⟨t, hrun, rfl⟩ := exists_runsTo_of_invariant (P := fun t => t = s)
    (fun t ht => ⟨s, by rw [ht]; exact step_unanswered hr hxchg hsilent, rfl⟩) n s rfl
  exact hrun

/-! ### One attempt -/

/-- PREP again, after the bus answered with `a` and the attempt failed. -/
def State.retryStart (a : BusAnswer) (b : BusSource) (s : State) : State := { s.answered a b with fsm := .prep }

theorem judge_answered_success {s : State} {a : BusAnswer} (h : success s.params a.word a.frame = true)
    (b : BusSource) : judge (s.answered a b) = respond false a.word (s.answered a b) :=
  judge_success (by simpa using h)

theorem judge_answered_retry {s : State} {a : BusAnswer} (h : success s.params a.word a.frame = false)
    (hleft : s.retryUnbounded = true ∨ s.att.toNat < s.retryLimit.toNat) (b : BusSource) :
    judge (s.answered a b) = s.retryStart a b := by
  refine judge_retry (by simpa using h) (hleft.imp_right fun hlt => ?_)
  rw [answered_att, answered_retryLimit, satInc_toNat]
  omega

/-- The attempt that makes ATT exceed LIMIT is the last one; LIMIT = 0xFFFFFFFF is never exceeded (R119). -/
theorem judge_answered_exhausted {s : State} {a : BusAnswer} (h : success s.params a.word a.frame = false)
    (hbounded : s.retryUnbounded = false) (hlast : s.retryLimit.toNat ≤ s.att.toNat)
    (hlimit : s.retryLimit.toNat < 0xFFFFFFFF) (b : BusSource) :
    judge (s.answered a b) = raise .retryExhausted a.word (s.answered a b) := by
  refine judge_exhausted (by simpa using h) hbounded ?_
  rw [answered_att, answered_retryLimit, satInc_toNat]
  omega

/-- The three steps of an attempt that the bus answers, from PREP to what CHECK decides, and the run from there. -/
theorem runsTo_attempt {s u : State} {a : BusAnswer} {b : BusSource} {n : Nat} (hr : s.resetPin = false)
    (hprep : s.fsm = .prep) (hans : busNext s.bus (requestWord s) (payload s) = some (a, b))
    (hrun : RunsTo n (judge ((prepare s).answered a b)) u) : RunsTo (n + 3) s u :=
  runsTo_succ (step_prep hr hprep) <|
    runsTo_succ (step_answered (s := prepare s) hr rfl hans) <|
      runsTo_succ (step_check (s := (prepare s).answered a b) hr rfl) hrun

section
variable {s : State} {a : BusAnswer} {l : List BusAnswer} (hr : s.resetPin = false) (hprep : s.fsm = .prep)
  (hlisted : s.bus.listed = a :: l)
include hr hprep hlisted

/-- An attempt whose answer succeeds ends the EXEC. -/
theorem runsTo_success (h : success s.params a.word a.frame = true) :
    RunsTo 3 s (respond false a.word ((prepare s).answered a { s.bus with listed := l })) := by
  refine runsTo_attempt hr hprep (busNext_of_listed hlisted _ _) ?_
  rw [judge_answered_success (s := prepare s) h]
  exact runsTo_zero _

/-- A failed attempt past the bound ends the EXEC. -/
theorem runsTo_exhausted (h : success s.params a.word a.frame = false) (hbounded : s.retryUnbounded = false)
    (hlast : s.retryLimit.toNat ≤ s.att.toNat) (hlimit : s.retryLimit.toNat < 0xFFFFFFFF) :
    RunsTo 3 s (raise .retryExhausted a.word ((prepare s).answered a { s.bus with listed := l })) := by
  refine runsTo_attempt hr hprep (busNext_of_listed hlisted _ _) ?_
  rw [judge_answered_exhausted (s := prepare s) h hbounded hlast hlimit]
  exact runsTo_zero _

/-- A failed attempt within the bound is followed by the next one. -/
theorem runsTo_retry {n : Nat} {u : State} (h : success s.params a.word a.frame = false)
    (hleft : s.retryUnbounded = true ∨ s.att.toNat < s.retryLimit.toNat)
    (hrun : RunsTo n ((prepare s).retryStart a { s.bus with listed := l }) u) : RunsTo (n + 3) s u := by
  refine runsTo_attempt hr hprep (busNext_of_listed hlisted _ _) ?_
  rwa [judge_answered_retry (s := prepare s) h hleft]

end

/-- The payload of a retry (R117): the frame the bus returned, or the saved one. -/
theorem payload_retryStart (a : BusAnswer) (b : BusSource) (s : State) :
    payload (s.retryStart a b) = if s.params.retryPayload = .current then a.frame else payload s := by
  cases hmode : s.params.retryPayload <;> simp [payload, State.retryStart, State.answered, hmode]

/-- Settles O37: the answered exchange, CHECK's retry, and PREP. -/
theorem retrySendsThePayloadOfItsMode : Obligations.RetrySendsThePayloadOfItsMode := by
  unfold Obligations.RetrySendsThePayloadOfItsMode
  intro s a b' hr hxchg hans hfail hleft
  refine ⟨prepare (s.retryStart a b'), ?_, rfl, payload_retryStart a b' s, rfl⟩
  have hjudge : step (s.answered a b') = .next (s.retryStart a b') :=
    (step_check (s := s.answered a b') hr rfl).trans (congrArg _ (judge_answered_retry hfail hleft b'))
  exact runsTo_succ (step_answered hr hxchg hans) <| runsTo_succ hjudge <|
    runsTo_succ (step_prep (s := s.retryStart a b') hr rfl) (runsTo_zero _)

/-! ### A frame read that converges (R129) -/

/-- From PREP, failed attempts as long as one is left and then a successful one end the EXEC: every attempt takes
three steps and is counted in ATT. -/
theorem runsTo_success_after_failures (good : BusAnswer) (more : List BusAnswer) (bad : List BusAnswer) :
    ∀ s : State, s.resetPin = false → s.fsm = .prep → s.bus.listed = bad ++ good :: more →
      (∀ a ∈ bad, success s.params a.word a.frame = false) → success s.params good.word good.frame = true →
      (s.retryUnbounded = true ∨ s.att.toNat + bad.length ≤ s.retryLimit.toNat) →
      ∃ t, RunsTo (3 * (bad.length + 1)) s t ∧ t.fsm = .idle ∧ t.rspStatus = 0 ∧ t.rspData = good.word ∧
        t.fbufFrame = good.frame ∧ t.lastAttempts.toNat = min (s.att.toNat + bad.length + 1) 0xFFFFFFFF ∧
        t.bus.listed = more ∧ t.port = s.port := by
  induction bad with
  | nil =>
    intro s hr hprep hlisted _ hgood _
    exact ⟨_, runsTo_success hr hprep hlisted hgood, rfl, rfl, rfl,
      answered_fbufFrame good { s.bus with listed := more } (prepare s), satInc_toNat s.att, rfl, rfl⟩
  | cons a bad ih =>
    intro s hr hprep hlisted hbad hgood hleft
    obtain ⟨hfail, hbad⟩ := List.forall_mem_cons.mp hbad
    rw [List.length_cons] at hleft ⊢
    have hcount := satInc_toNat s.att
    obtain ⟨t, hrun, hidle, hstatus, hdata, hfbuf, hatt, hmore, hport⟩ :=
      ih ((prepare s).retryStart a { s.bus with listed := bad ++ good :: more }) hr rfl rfl hbad hgood
        (hleft.imp_right fun hle => show (satInc s.att).toNat + bad.length ≤ s.retryLimit.toNat by omega)
    have hrest : s.retryUnbounded = true ∨ s.att.toNat < s.retryLimit.toNat := hleft.imp_right (by omega)
    refine ⟨t, runsTo_retry hr hprep hlisted hfail hrest hrun, hidle, hstatus, hdata, hfbuf, ?_, hmore, hport⟩
    rw [hatt]
    change min ((satInc s.att).toNat + bad.length + 1) 0xFFFFFFFF = _
    omega

/-- Settles O41: the accepting step, and then `runsTo_success_after_failures` with R115's rule for frame reads. -/
theorem checksumRetryConverges : Obligations.ChecksumRetryConverges := by
  unfold Obligations.ChecksumRetryConverges
  intro s w rest fidx bad good more hr hidle on hport hdec hlisted hbad hgoodOpcode hgoodSum hleft
  have hfails : ∀ a ∈ bad, success s.params a.word a.frame = false := fun a ha => by
    obtain ⟨hopcode, hsum⟩ := hbad a ha
    exact Bool.eq_false_iff.mpr fun h => hsum ((success_frameRead_iff hopcode a.frame).mp h)
  have hsucceeds := (success_frameRead_iff hgoodOpcode good.frame).mpr hgoodSum
  have haccept := (step_command hr hidle hport hdec).trans (exec_exec_on (s := { s with port := rest }) on _ fidx)
  obtain ⟨t, hrun, hidle', hstatus, hdata, hfbuf, hatt, hmore, hport'⟩ :=
    runsTo_success_after_failures good more bad (latch s.params.opcodes.frameRead fidx { s with port := rest }) hr rfl
      hlisted hfails hsucceeds (hleft.imp_right fun hle => by simpa using hle)
  exact ⟨t, runsTo_succ haccept hrun, hidle', hstatus, hdata, hfbuf, by simpa using hatt, hmore, hport'⟩

/-! ### An unbounded EXEC on a failing bus (R128) -/

/-- An unbounded EXEC is in progress, every answer listed fails, and a failing one follows for ever. -/
structure FailsForever (last : BusAnswer) (s : State) : Prop where
  released : s.resetPin = false
  busy : s.fsm ≠ .idle
  unbounded : s.retryUnbounded = true
  later : s.bus.later = .repeating last
  lastFails : success s.params last.word last.frame = false
  listedFail : ∀ x ∈ s.bus.listed, success s.params x.word x.frame = false
  judgedFails : s.fsm = .check → success s.params s.lastRsp s.fbufFrame = false

/-- A bus that repeats an answer always answers: with a listed answer, or with the repeated one. -/
theorem busNext_of_repeating {b : BusSource} {last : BusAnswer} (h : b.later = .repeating last) (w : Word)
    (p : Frame) : ∃ a b', busNext b w p = some (a, b') ∧ (a = last ∨ a ∈ b.listed) ∧
      b'.later = .repeating last ∧ ∀ x ∈ b'.listed, x ∈ b.listed := by
  obtain ⟨listed, later⟩ := b
  obtain rfl : later = .repeating last := h
  cases listed with
  | nil => exact ⟨last, _, rfl, .inl rfl, rfl, fun _ hx => hx⟩
  | cons a l => exact ⟨a, _, rfl, .inr (List.mem_cons_self ..), rfl, fun _ hx => List.mem_cons_of_mem a hx⟩

theorem FailsForever.not_stuck {last : BusAnswer} {s : State} (hf : FailsForever last s) : s.stuck = false := by
  obtain ⟨a, b', hans, -⟩ := busNext_of_repeating hf.later s.req (payload s)
  simp [State.stuck, State.busSilent, hans]

theorem step_keeps_failsForever {last : BusAnswer} (s : State) (hf : FailsForever last s) :
    ∃ t, step s = .next t ∧ FailsForever last t := by
  obtain ⟨hr, hbusy, hunbounded, hlater, hlast, hlisted, hjudged⟩ := hf
  obtain hprep | hxchg | hcheck := Fsm.busy_cases hbusy
  · exact ⟨prepare s, step_prep hr hprep, hr, by simp, hunbounded, hlater, hlast, hlisted, by simp⟩
  · obtain ⟨a, b', hans, ha, hlater', hsub⟩ := busNext_of_repeating hlater s.req (payload s)
    have hfail : success s.params a.word a.frame = false := by
      obtain rfl | hmem := ha
      · exact hlast
      · exact hlisted a hmem
    exact ⟨s.answered a b', step_answered hr hxchg hans, hr, by simp, hunbounded, hlater', hlast,
      fun x hx => hlisted x (hsub x hx), fun _ => by simpa using hfail⟩
  · refine ⟨_, step_check hr hcheck, ?_⟩
    rw [judge_retry (hjudged hcheck) (.inl hunbounded)]
    exact ⟨hr, by simp, hunbounded, hlater, hlast, hlisted, by simp⟩

/-- Settles O42: the failing bus is an invariant, in which the engine is busy and answered. -/
theorem unboundedExecHangsOnAFailingBus : Obligations.UnboundedExecHangsOnAFailingBus := by
  unfold Obligations.UnboundedExecHangsOnAFailingBus
  intro s last hr hstart hunbounded hlater hlast hlisted n
  have hf : FailsForever last s := by
    refine ⟨hr, ?_, hunbounded, hlater, hlast, hlisted, ?_⟩ <;> obtain h | h := hstart <;> simp [h]
  obtain ⟨t, hrun, ht⟩ := exists_runsTo_of_invariant step_keeps_failsForever n s hf
  exact ⟨t, hrun, ht.busy, ht.not_stuck⟩

/-! ### A bounded EXEC ends (R119, R128) -/

/-- From PREP with `k` attempts left beyond this one, and their answers listed, the EXEC ends by the last of them. -/
theorem runsTo_idle_of_bounded (k : Nat) :
    ∀ s : State, s.resetPin = false → s.fsm = .prep → s.retryUnbounded = false →
      s.retryLimit.toNat < 0xFFFFFFFF → s.att.toNat + k = s.retryLimit.toNat → k + 1 ≤ s.bus.listed.length →
      ∃ n t, n ≤ 3 * (k + 1) ∧ RunsTo n s t ∧ t.fsm = .idle ∧
        s.bus.listed.length ≤ t.bus.listed.length + (k + 1) := by
  induction k with
  | zero =>
    intro s hr hprep hbounded hlimit hatt hanswers
    obtain ⟨a, l, hlisted⟩ := List.exists_cons_of_length_pos hanswers
    rw [hlisted]
    cases hs : success s.params a.word a.frame with
    | true => exact ⟨3, _, le_rfl, runsTo_success hr hprep hlisted hs, rfl, le_rfl⟩
    | false => exact ⟨3, _, le_rfl, runsTo_exhausted hr hprep hlisted hs hbounded hatt.ge hlimit, rfl, le_rfl⟩
  | succ k ih =>
    intro s hr hprep hbounded hlimit hatt hanswers
    obtain ⟨a, l, hlisted⟩ := List.exists_cons_of_length_pos (Nat.zero_lt_of_lt hanswers)
    rw [hlisted, List.length_cons] at hanswers ⊢
    cases hs : success s.params a.word a.frame with
    | true =>
      exact ⟨3, _, by omega, runsTo_success hr hprep hlisted hs, rfl, Nat.succ_le_succ (Nat.le_add_right l.length _)⟩
    | false =>
      have hcount := satInc_toNat s.att
      obtain ⟨n, t, hn, hrun, hidle, hleft⟩ := ih ((prepare s).retryStart a { s.bus with listed := l }) hr rfl hbounded
        hlimit (show (satInc s.att).toNat + k = s.retryLimit.toNat by omega) (Nat.le_of_succ_le_succ hanswers)
      exact ⟨n + 3, t, by omega, runsTo_retry hr hprep hlisted hs (.inr (by omega)) hrun, hidle,
        Nat.succ_le_succ hleft⟩

/-- Settles O43: `runsTo_idle_of_bounded` from ATT = 0; and no count exceeds the largest LIMIT. -/
theorem boundedExecEnds : Obligations.BoundedExecEnds := by
  unfold Obligations.BoundedExecEnds
  refine ⟨fun s hr hprep hatt hbounded hlimit hanswers => ?_, fun s hr hcheck hlimit hs => ?_⟩
  · exact runsTo_idle_of_bounded s.retryLimit.toNat s hr hprep hbounded hlimit (by simp [hatt]) hanswers
  · have hleft : s.att.toNat ≤ s.retryLimit.toNat := by
      rw [hlimit]
      exact Nat.le_of_lt_succ s.att.isLt
    rw [step_check hr hcheck, judge_retry hs (.inr hleft)]

end Sys2Proof.Machine

/-! ### The bus opcodes and the reference bus (41_bus_opcodes.md R140 to R149) -/

namespace Sys2Proof.Machine

theorem exec_request_answered {i : Instr} {s : State} {a : BusAnswer} {b : BusSource} (hi : i.isCommand = false)
    (hans : busNext s.bus (encode s.params i) (payload s) = some (a, b)) : exec i s = .next (s.answered a b) :=
  (exec_request hi s).trans (congrArg _ (exchange_of_answer hans))

theorem exec_request_unanswered {i : Instr} {s : State} (hi : i.isCommand = false)
    (hsilent : busNext s.bus (encode s.params i) (payload s) = none) : exec i s = .next s :=
  (exec_request hi s).trans (congrArg _ (exchange_of_silence hsilent))

/-- Settles O31: none of the five is a command, so each is the exchange of its word, answered or not. -/
theorem busRequestsTakeTheAnswer : Obligations.BusRequestsTakeTheAnswer := by
  unfold Obligations.BusRequestsTakeTheAnswer
  intro s f c rc i hmem
  have hi : i.isCommand = false := by
    simp only [List.mem_cons, List.not_mem_nil, or_false] at hmem
    obtain rfl | rfl | rfl | rfl | rfl := hmem <;> rfl
  refine ⟨fun a b' hans => ?_, exec_request_unanswered hi⟩
  exact ⟨s.answered a b', exec_request_answered hi hans, answered_fbufFrame a b' s, rfl, rfl, satInc_toNat s.att, rfl,
    rfl⟩

/-- A frame-read in range is answered with the stored frame under its own checksum (R143, R148 (2)). -/
theorem refBusAnswer_frameRead {p : Params} {f : FrameIndex} (hf : f.toNat < p.deviceFrames.toNat) (dev : Device)
    (c : BitVec 32) (rc : BitVec 8) (P : Frame) :
    refBusAnswer p dev (encode p (.opFrameRead f c rc)) P =
      (⟨pack p.layout ⟨p.opcodes.frameRead, f, csum p.csum (deviceRead dev f.toNat), 0⟩, deviceRead dev f.toNat⟩,
        dev) := by
  simp [refBusAnswer, encode, unpack_pack, Nat.not_le.mpr hf]

/-- RB_CORRUPT flips bit 0 of byte 0 of a frame-read's answer in range, and counts down (R149). -/
theorem refBusNext_corrupt_frameRead {p : Params} {f : FrameIndex} (hf : f.toNat < p.deviceFrames.toNat) (k : Nat)
    (dev : Device) (c : BitVec 32) (rc : BitVec 8) (P : Frame) :
    refBusNext p ⟨.corrupt (k + 1), dev⟩ (encode p (.opFrameRead f c rc)) P =
      (⟨pack p.layout ⟨p.opcodes.frameRead, f, csum p.csum (deviceRead dev f.toNat), 0⟩,
          (deviceRead dev f.toNat).set 0 ((deviceRead dev f.toNat)[0] ^^^ 1)⟩,
        ⟨.corrupt k, dev⟩) := by
  simp only [refBusNext, refBusAnswer_frameRead hf]
  simp [encode, unpack_pack, hf]

/-- An answer to a frame-read succeeds when the frame has the checksum it carries (R115). -/
theorem success_pack_frameRead_iff (p : Params) (f : FrameIndex) (c : BitVec 32) (rc : BitVec 8) (b : Frame) :
    success p (pack p.layout ⟨p.opcodes.frameRead, f, c, rc⟩) b = true ↔ csum p.csum b = c := by
  rw [success_frameRead_iff (by rw [unpack_pack]), unpack_pack]

/-- Settles O57: the answer carries the checksum of the frame it returns. -/
theorem referenceBusReadSucceeds : Obligations.ReferenceBusReadSucceeds := by
  unfold Obligations.ReferenceBusReadSucceeds
  intro p dev f c rc P hf
  rw [refBusAnswer_frameRead hf]
  exact ⟨rfl, (success_pack_frameRead_iff ..).mpr rfl⟩

/-- The default checksum as a sum of 32-bit words (R114). -/
theorem csumSum_eq_sum_setWidth (f : Frame) : csumSum f = (f.toList.map fun b => b.setWidth 32).sum := by
  rw [csumSum_eq_sum, ← BitVec.natCast_eq_ofNat, Nat.cast_list_sum, List.map_map]
  exact congrArg List.sum (List.map_congr_left fun b _ => BitVec.ofNat_toNat 32 b)

/-- Replacing a byte takes the old one out of the default checksum and puts the new one in. -/
theorem csumSum_set (f : Frame) {i : Nat} (hi : i < 4096) (b : Byte) :
    csumSum (f.set i b) = csumSum f + (-f[i].setWidth 32 + b.setWidth 32) := by
  have hlen : i < (f.toList.map fun b => b.setWidth 32).length := by simpa using hi
  rw [csumSum_eq_sum_setWidth, csumSum_eq_sum_setWidth, Vector.toList_set, List.map_set, List.sum_set', dif_pos hlen,
    List.getElem_map, Vector.getElem_toList]

/-- One changed byte changes the default checksum (R114): two bytes never differ by a multiple of 2^32. -/
theorem csumSum_set_ne {f : Frame} {i : Nat} (hi : i < 4096) {b : Byte} (hb : b ≠ f[i]) :
    csumSum (f.set i b) ≠ csumSum f := by
  rw [csumSum_set]
  generalize f[i] = x at hb
  intro h
  exact hb (by bv_omega)

/-- Settles O58: the flipped bit changes byte 0, and with it the sum the answer carries. -/
theorem corruptedReadAnswerFails : Obligations.CorruptedReadAnswerFails := by
  unfold Obligations.CorruptedReadAnswerFails
  intro p dev k f c rc P hsum hf
  rw [refBusNext_corrupt_frameRead hf]
  refine ⟨?_, rfl⟩
  have hflip (x : Byte) : x ^^^ 1 ≠ x := by revert x; decide
  rw [← Bool.not_eq_true, success_pack_frameRead_iff, hsum]
  exact csumSum_set_ne (by decide) (hflip _)

end Sys2Proof.Machine

/-! ### The frame cache's commands (42_frame_cache.md R161 to R165) -/

namespace Sys2Proof.Machine

/-! ### Which entry has the key (R161) -/

theorem keyMatch_frameOnly_iff (sid : StoreId) (fidx : FrameIndex) (e : CacheEntry) :
    keyMatch .frameOnly sid fidx e = true ↔ e.fidx = fidx := by
  simp [keyMatch]

theorem keyMatch_full_iff (sid : StoreId) (fidx : FrameIndex) (e : CacheEntry) :
    keyMatch .full sid fidx e = true ↔ e.fidx = fidx ∧ e.sid = sid := by
  simp [keyMatch]

/-- Settles O21: one equivalence for each KEY_MODE. -/
theorem keyMatchFollowsKeyMode : Obligations.KeyMatchFollowsKeyMode := by
  unfold Obligations.KeyMatchFollowsKeyMode
  exact fun e sid fidx => ⟨keyMatch_frameOnly_iff sid fidx e, keyMatch_full_iff sid fidx e⟩

/-- Under either KEY_MODE a match has the FIDX of the key. -/
theorem fidx_of_keyMatch {mode : KeyMode} {sid : StoreId} {fidx : FrameIndex} {e : CacheEntry}
    (h : keyMatch mode sid fidx e = true) : e.fidx = fidx := by
  cases mode with
  | frameOnly => exact (keyMatch_frameOnly_iff sid fidx e).mp h
  | full => exact ((keyMatch_full_iff sid fidx e).mp h).1

theorem keyMatch_of_fidx_ne {mode : KeyMode} {sid : StoreId} {fidx : FrameIndex} {e : CacheEntry}
    (h : e.fidx ≠ fidx) : keyMatch mode sid fidx e = false :=
  Bool.eq_false_iff.mpr (mt fidx_of_keyMatch h)

/-- The SID of the key counts under FULL only. -/
theorem keyMatch_of_sid {mode : KeyMode} {sid sid' : StoreId} {fidx : FrameIndex} {e : CacheEntry}
    (hsid : mode = .frameOnly ∨ sid' = sid) (h : keyMatch mode sid fidx e = true) :
    keyMatch mode sid' fidx e = true := by
  obtain rfl | rfl := hsid
  · exact (keyMatch_frameOnly_iff sid' fidx e).mpr (fidx_of_keyMatch h)
  · exact h

/-- `cacheFind` finds the first entry that matches; with `cacheFind_some`, that entry only. -/
theorem cacheFind_of_first {mode : KeyMode} {sid : StoreId} {fidx : FrameIndex} {l : List CacheEntry} {i : Nat}
    {e : CacheEntry} (hi : l[i]? = some e) (hmatch : keyMatch mode sid fidx e = true)
    (hfirst : ∀ j e', j < i → l[j]? = some e' → keyMatch mode sid fidx e' = false) :
    cacheFind mode sid fidx l = some (i, e) := by
  cases hf : cacheFind mode sid fidx l with
  | none => simp [cacheFind_none.mp hf e (List.mem_of_getElem? hi)] at hmatch
  | some r =>
    obtain ⟨k, x⟩ := r
    obtain ⟨hk, hx, hbefore⟩ := cacheFind_some hf
    obtain hlt | rfl | hgt := Nat.lt_trichotomy k i
    · simp [hfirst k x hlt hk] at hx
    · rw [Option.some.inj (hk.symm.trans hi)]
    · simp [hbefore i e hgt hi] at hmatch

theorem cacheFind_cons_of_keyMatch {mode : KeyMode} {sid : StoreId} {fidx : FrameIndex} {e : CacheEntry}
    (h : keyMatch mode sid fidx e = true) (l : List CacheEntry) :
    cacheFind mode sid fidx (e :: l) = some (0, e) := if_pos h

theorem cacheFind_none_of_fidx {mode : KeyMode} {sid : StoreId} {fidx : FrameIndex} {l : List CacheEntry}
    (h : ∀ e ∈ l, e.fidx ≠ fidx) : cacheFind mode sid fidx l = none :=
  cacheFind_none.mpr fun e he => keyMatch_of_fidx_ne (h e he)

/-! ### CLOOKUP (R162) -/

/-- Settles O19: the hit, the miss and the power check, each with its RSP_STATUS evaluated. -/
theorem clookupCopiesWithoutPromotion : Obligations.ClookupCopiesWithoutPromotion := by
  unfold Obligations.ClookupCopiesWithoutPromotion
  refine fun s sid fidx => ⟨fun on i e hi hmatch hfirst => ?hit, fun on hnone => ?miss, fun off => ?off⟩
  case hit => exact exec_clookup_hit on (cacheFind_of_first hi hmatch hfirst)
  case miss => exact exec_clookup_miss on (cacheFind_none.mpr hnone)
  case off => exact exec_clookup_off off

/-! ### CUPSERT (R163) -/

theorem exec_cupsert_on {s : State} (on : s.powered = true) (sid : StoreId) (fidx : FrameIndex) :
    exec (.cupsert sid fidx) s =
      .next (respond false (upsert sid fidx s).2 { s with ce := (upsert sid fidx s).1 }) := if_pos on

theorem exec_cupsert_of_upsert {s : State} {sid : StoreId} {fidx : FrameIndex} {ce : List CacheEntry} {data : Word}
    (on : s.powered = true) (h : upsert sid fidx s = (ce, data)) :
    exec (.cupsert sid fidx) s = .next (respond false data { s with ce := ce }) := by
  rw [exec_cupsert_on on, h]

/-- RSP_DATA of steps 2 and 4 as its fields side by side: bit for bit, since the shifted fields do not overlap. -/
theorem upsertData_eq_append (path : BitVec 8) (e : CacheEntry) :
    upsertData path e = 0#32 ++ e.fidx ++ e.sid ++ path := by
  unfold upsertData
  ext i hi
  simp only [BitVec.getElem_or, BitVec.getElem_shiftLeft]
  grind

section
variable {s : State} {sid : StoreId} {fidx : FrameIndex}

theorem upsert_of_empty (h : s.ce = []) : upsert sid fidx s = ([newEntry sid fidx s], 1) := by
  obtain ⟨-, hu⟩ | ⟨i, e, hf, -⟩ | ⟨hne, -⟩ | ⟨hne, -⟩ := upsert_cases sid fidx s
  · exact hu
  · simp [h, cacheFind] at hf
  · exact absurd h hne
  · exact absurd h hne

theorem upsert_of_found {i : Nat} {e : CacheEntry} (h : cacheFind s.params.keyMode sid fidx s.ce = some (i, e)) :
    upsert sid fidx s = ({ e with data := s.fbuf } :: s.ce.eraseIdx i, upsertData 0x02 e) := by
  obtain ⟨hce, -⟩ | ⟨i', e', hf, hu⟩ | ⟨-, hf, -⟩ | ⟨-, hf, -⟩ := upsert_cases sid fidx s
  · simp [hce, cacheFind] at h
  · cases h.symm.trans hf
    exact hu
  · cases h.symm.trans hf
  · cases h.symm.trans hf

theorem upsert_of_room (hne : s.ce ≠ []) (h : cacheFind s.params.keyMode sid fidx s.ce = none)
    (hlt : s.ce.length < s.capacity.toNat) : upsert sid fidx s = (newEntry sid fidx s :: s.ce, 3) := by
  obtain ⟨hce, -⟩ | ⟨i, e, hf, -⟩ | ⟨-, -, -, hu⟩ | ⟨-, -, hge, -⟩ := upsert_cases sid fidx s
  · exact absurd hce hne
  · cases h.symm.trans hf
  · exact hu
  · exact absurd hlt (Nat.not_lt.mpr hge)

theorem upsert_of_full {front : List CacheEntry} {tail : CacheEntry} (hce : s.ce = front ++ [tail])
    (h : cacheFind s.params.keyMode sid fidx s.ce = none) (hle : s.capacity.toNat ≤ s.ce.length) :
    upsert sid fidx s = (newEntry sid fidx s :: front, upsertData 0x04 tail) := by
  obtain ⟨hnil, -⟩ | ⟨i, e, hf, -⟩ | ⟨-, -, hlt, -⟩ | ⟨hne, -, -, hu⟩ := upsert_cases sid fidx s
  · simp [hce] at hnil
  · cases h.symm.trans hf
  · exact absurd hlt (Nat.not_lt.mpr hle)
  · simpa [hce] using hu

end

/-- Settles O20: each step's conditions fix the branch of `upsert`; the rest is CUPSERT's one response. -/
theorem cupsertTakesOneOfFourSteps : Obligations.CupsertTakesOneOfFourSteps := by
  unfold Obligations.CupsertTakesOneOfFourSteps
  intro s sid fidx on new ends
  refine ⟨fun hempty => ?step1, fun i e hi hmatch hfirst => ?step2, fun hne hnone hlt => ?step3,
    fun front tail hce hnone hfull => ?step4⟩
  case step1 => exact exec_cupsert_of_upsert on (upsert_of_empty hempty)
  case step2 =>
    rw [← upsertData_eq_append, ← List.eraseIdx_eq_take_drop_succ]
    exact exec_cupsert_of_upsert on (upsert_of_found (cacheFind_of_first hi hmatch hfirst))
  case step3 => exact exec_cupsert_of_upsert on (upsert_of_room hne (cacheFind_none.mpr hnone) hlt)
  case step4 =>
    rw [← upsertData_eq_append]
    exact exec_cupsert_of_upsert on (upsert_of_full hce (cacheFind_none.mpr hnone) hfull.ge)

/-! ### Lookups after upserts (R164, R165) -/

theorem keyMatch_newEntry (mode : KeyMode) (sid : StoreId) (fidx : FrameIndex) (s : State) :
    keyMatch mode sid fidx (newEntry sid fidx s) = true := keyMatch_self mode (newEntry sid fidx s)

/-- Whichever step CUPSERT takes, the most recent entry then has its key and the content of FBUF. -/
theorem upsert_head (sid : StoreId) (fidx : FrameIndex) (s : State) :
    ∃ e l, (upsert sid fidx s).1 = e :: l ∧ keyMatch s.params.keyMode sid fidx e = true ∧ e.data = s.fbuf := by
  obtain ⟨-, hu⟩ | ⟨i, e, hf, hu⟩ | ⟨-, -, -, hu⟩ | ⟨_, -, -, hu⟩ := upsert_cases sid fidx s <;> rw [hu]
  · exact ⟨_, _, rfl, keyMatch_newEntry .., rfl⟩
  · obtain ⟨-, hmatch, -⟩ := cacheFind_some hf
    exact ⟨_, _, rfl, (keyMatch_congr rfl rfl).trans hmatch, rfl⟩
  · exact ⟨_, _, rfl, keyMatch_newEntry .., rfl⟩
  · exact ⟨_, _, rfl, keyMatch_newEntry .., rfl⟩

/-- Settles O22: the entry at the front after the upsert is the one the lookup finds. -/
theorem lookupAfterUpsertReturnsTheContent : Obligations.LookupAfterUpsertReturnsTheContent := by
  unfold Obligations.LookupAfterUpsertReturnsTheContent
  intro s sid sid' fidx on hsid
  refine ⟨_, exec_cupsert_on on sid fidx, fun m => ?_⟩
  obtain ⟨e, l, hce, hmatch, hdata⟩ := upsert_head sid fidx s
  have hfind : cacheFind s.params.keyMode sid' fidx (upsert sid fidx s).1 = some (0, e) :=
    hce ▸ cacheFind_cons_of_keyMatch (keyMatch_of_sid hsid hmatch) l
  rw [← hdata]
  exact exec_clookup_hit on hfind

/-- Settles O24: steps 1, 3 and 4 of CUPSERT, then a miss and a hit; the three FIDX differ, so no KEY_MODE
confuses them. -/
theorem cacheScenarioOfTheSource : Obligations.CacheScenarioOfTheSource := by
  unfold Obligations.CacheScenarioOfTheSource
  intro s A B C on hcap hempty
  have htwo : s.capacity.toNat = 2 := by rw [hcap]; rfl
  refine ⟨respond false 1 { s with fbuf := A, ce := [⟨1, 100, A⟩] },
    respond false 3 { s with fbuf := B, ce := [⟨1, 101, B⟩, ⟨1, 100, A⟩] },
    respond false 0x0000000000640104 { s with fbuf := C, ce := [⟨1, 102, C⟩, ⟨1, 101, B⟩] },
    respond false 0 { s with fbuf := C, ce := [⟨1, 102, C⟩, ⟨1, 101, B⟩] },
    respond true 0 { s with fbuf := C, ce := [⟨1, 102, C⟩, ⟨1, 101, B⟩] },
    ?sole, rfl, ?room, rfl, ?evicting, rfl, ?miss, rfl, ?hit, rfl, rfl⟩
  case sole => exact exec_cupsert_of_upsert on (upsert_of_empty hempty)
  case room =>
    exact exec_cupsert_of_upsert on (upsert_of_room (List.cons_ne_nil _ _) (cacheFind_none_of_fidx (by simp))
      (htwo ▸ Nat.lt_succ_self 1))
  case evicting =>
    have hdata : upsertData 0x04 ⟨1, 100, A⟩ = 0x0000000000640104 := by simp [upsertData]
    rw [← hdata]
    exact exec_cupsert_of_upsert on
      (upsert_of_full (front := [⟨1, 101, B⟩]) rfl (cacheFind_none_of_fidx (by simp)) htwo.le)
  case miss => exact exec_clookup_miss on (cacheFind_none_of_fidx (by simp))
  case hit =>
    exact exec_clookup_hit (k := 0) (e := ⟨1, 102, C⟩) on (cacheFind_cons_of_keyMatch (keyMatch_self _ ⟨1, 102, C⟩) _)

end Sys2Proof.Machine

/-! ### The allocator (43_frame_allocator.md R190, R191) -/

namespace Sys2Proof.Machine

/-- RSP_DATA of a successful ALLOC is the pair {zext_32(k), zext_32(base)} as one number (43_frame_allocator.md R190). -/
theorem allocData_eq_ofNat {k : Nat} (hk : k < 2 ^ 32) (base : BitVec 17) :
    allocData k base = BitVec.ofNat 64 (k * 2 ^ 32 + base.toNat) := by
  rw [← allocData_toNat hk, BitVec.ofNat_toNat, BitVec.setWidth_eq]

/-- The `k` frames fit, or none are needed: ALLOC assigns them all. -/
theorem exec_alloc_of_fits {s : State} {have_ : BitVec 20} {need : BitVec 32} (on : s.powered = true)
    (fits : framesNeeded have_ need = 0 ∨
      s.ffc.toNat + framesNeeded have_ need ≤ s.params.deviceFrames.toNat) :
    exec (.alloc have_ need) s =
      .next (respond false (allocData (framesNeeded have_ need) s.ffc)
        { s with ffc := BitVec.ofNat 17 (s.ffc.toNat + framesNeeded have_ need) }) := by
  have hfits : ¬ (0 < framesNeeded have_ need ∧
      s.params.deviceFrames.toNat < s.ffc.toNat + framesNeeded have_ need) := by omega
  simp only [exec, execAlloc, on, if_true, if_neg hfits]

/-- The `k` frames do not all fit: ALLOC assigns none. -/
theorem exec_alloc_of_full {s : State} {have_ : BitVec 20} {need : BitVec 32} (on : s.powered = true)
    (full : 0 < framesNeeded have_ need ∧
      s.params.deviceFrames.toNat < s.ffc.toNat + framesNeeded have_ need) :
    exec (.alloc have_ need) s = .next (raise .outOfFrames 0 s) := by
  simp only [exec, execAlloc, on, if_true, if_pos full]

/-- The source's loop takes turn `j` exactly when `j < k` (43_frame_allocator.md R191). -/
theorem lt_framesNeeded_iff (have_ : BitVec 20) (need : BitVec 32) (j : Nat) :
    j < framesNeeded have_ need ↔ (have_.toNat + j) * 4096 < need.toNat := by
  unfold framesNeeded
  omega

/-- Of the counter's values `base + 1, ..., base + k`, one exceeds `frames` iff the last one does
(43_frame_allocator.md R191). -/
theorem exists_turn_exceeds_iff (frames base k : Nat) :
    (∃ j, j < k ∧ frames < base + j + 1) ↔ 0 < k ∧ frames < base + k := by
  constructor
  · rintro ⟨j, hj, hexceeds⟩
    omega
  · rintro ⟨hpos, hexceeds⟩
    exact ⟨k - 1, by omega, by omega⟩

/-- Settles O26: the test of ALLOC taken either way, with the response written out. -/
theorem allocAssignsAllOrNone : Obligations.AllocAssignsAllOrNone := by
  unfold Obligations.AllocAssignsAllOrNone
  intro s have_ need on
  constructor
  · intro fits
    rw [exec_alloc_of_fits on fits, allocData_eq_ofNat (framesNeeded_lt have_ need)]
    rfl
  · exact fun hpos hexceeds => exec_alloc_of_full on ⟨hpos, hexceeds⟩

/-- Settles O27: `k` counts the turns the loop takes, and the last of them is the one whose test decides. -/
theorem allocCountIsTheLoopCount : Obligations.AllocCountIsTheLoopCount := by
  unfold Obligations.AllocCountIsTheLoopCount
  intro have_ need
  have hstop : need.toNat ≤ (have_.toNat + framesNeeded have_ need) * 4096 :=
    not_lt.mp (mt (lt_framesNeeded_iff have_ need _).mpr (lt_irrefl _))
  refine ⟨rfl, hstop, fun j => (lt_framesNeeded_iff have_ need j).mp, fun s => ?_⟩
  have htest := exists_turn_exceeds_iff s.params.deviceFrames.toNat s.ffc.toNat (framesNeeded have_ need)
  exact ⟨htest, fun hturn on => exec_alloc_of_full on (htest.mp hturn)⟩

end Sys2Proof.Machine

/-! ### The power lifecycle and the frame buffer (44_lifecycle_access.md R200 to R203) -/

namespace Sys2Proof.Machine

theorem exec_pwrOn_on {s : State} (on : s.powered = true) : exec .pwrOn s = .next (respond false 0 s) := if_pos on

theorem exec_pwrOn_off {s : State} (off : s.powered = false) :
    exec .pwrOn s = .next (respond false 0 { s with powered := true, ce := [], ffc := 0 }) :=
  if_neg (Bool.eq_false_iff.mp off)

theorem exec_pwrOff_on {s : State} (on : s.powered = true) :
    exec .pwrOff s = .next (respond false 0 { s with ce := [], powered := false }) := if_pos on

theorem exec_pwrOff_off {s : State} (off : s.powered = false) : exec .pwrOff s = .next (raise .notPoweredOn 0 s) :=
  if_neg (Bool.eq_false_iff.mp off)

/-- Settles O12, by the power state. -/
theorem pwrOnEmptiesCacheAndCounter : Obligations.PwrOnEmptiesCacheAndCounter := by
  unfold Obligations.PwrOnEmptiesCacheAndCounter
  exact fun s => ⟨exec_pwrOn_off, exec_pwrOn_on⟩

/-- Settles O13, by the power state. -/
theorem pwrOffReleasesEveryEntry : Obligations.PwrOffReleasesEveryEntry := by
  unfold Obligations.PwrOffReleasesEveryEntry
  exact fun s => ⟨exec_pwrOff_on, exec_pwrOff_off⟩

theorem exec_fbwr (a : BitVec 12) (d : Byte) (s : State) :
    exec (.fbwr a d) s = .next (respond false 0 (s.writeFbuf a d)) := rfl

/-- WHAT FBWR DOES TO FBUF: the byte written reads back, every other byte reads as before. -/
theorem readFbuf_writeFbuf (s : State) (a b : BitVec 12) (d : Byte) :
    (s.writeFbuf a d).readFbuf b = if b = a then d else s.readFbuf b := by
  rw [State.readFbuf, writeFbuf_fbuf, writeFbuf_resets, read_write]
  simp only [BitVec.toNat_inj, State.readFbuf]

/-- Settles O15, by `readFbuf_writeFbuf`; the response writes no byte. -/
theorem frameBufferBytesReadAndWrite : Obligations.FrameBufferBytesReadAndWrite := by
  unfold Obligations.FrameBufferBytesReadAndWrite
  refine fun s a d => ⟨exec_fbrd a s, exec_fbwr a d s, fun t h => ?_⟩
  rw [exec_fbwr] at h
  cases h
  refine ⟨?_, fun b hne => ?_⟩
  · rw [readFbuf_respond, readFbuf_writeFbuf, if_pos rfl]
  · rw [readFbuf_respond, readFbuf_writeFbuf, if_neg hne]

end Sys2Proof.Machine

/-! ### Reading the control and status registers (44_lifecycle_access.md R204; 10_state.md R25 to R36)

The model builds a register from shifted fields, the statement sets the fields side by side: `setWidth_append_eq_or`
takes the one form to the other, and the unused bits on top add nothing. -/

namespace Sys2Proof.Machine

/-- A flag as the encoders write it is its one bit, zero-extended. -/
theorem bitWord_eq_setWidth (b : Bool) : bitWord b = (BitVec.ofBool b).setWidth 64 := by
  cases b <;> rfl

theorem setWidth_append_eq_or {m n : Nat} (w : Nat) (x : BitVec m) (y : BitVec n) :
    (x ++ y).setWidth w = y.setWidth w ||| x.setWidth w <<< n := by
  rw [BitVec.setWidth_append_eq_shiftLeft_setWidth_or, BitVec.or_comm]

theorem setWidth_zero_append {m n : Nat} (w : Nat) (x : BitVec n) : (0#m ++ x).setWidth w = x.setWidth w := by
  rw [setWidth_append_eq_or, BitVec.setWidth_zero, BitVec.zero_shiftLeft, BitVec.or_zero]

/-- A register of one field: the unused bits above it are 0. -/
theorem setWidth_eq_zero_append {m n : Nat} (x : BitVec n) : x.setWidth (m + n) = 0#m ++ x := by
  rw [← setWidth_zero_append (m := m), BitVec.setWidth_eq]

theorem csrValue_retry (s : State) :
    csrValue s .retry = 0#31 ++ BitVec.ofBool s.retryUnbounded ++ s.retryLimit := by
  refine .trans ?_ (BitVec.setWidth_eq _)
  rw [setWidth_append_eq_or, setWidth_zero_append, csrValue, bitWord_eq_setWidth]

theorem csrValue_status (s : State) :
    csrValue s .status = 0#62 ++ BitVec.ofBool s.cfgFault ++ BitVec.ofBool s.powered := by
  refine .trans ?_ (BitVec.setWidth_eq _)
  rw [setWidth_append_eq_or, setWidth_zero_append, csrValue, bitWord_eq_setWidth, bitWord_eq_setWidth]

/-- CCOUNT shows a length its 16 bits hold (10_state.md R30). -/
theorem csrValue_ccount {s : State} (h : s.ce.length < 65536) : csrValue s .ccount = BitVec.ofNat 64 s.ce.length :=
  BitVec.setWidth_ofNat_of_le_of_lt (by decide) h

theorem csrValue_modes (s : State) :
    csrValue s .modes = 0#61 ++ BitVec.ofBool (s.params.layout == .msbFirst) ++
      BitVec.ofBool (s.params.retryPayload == .original) ++ BitVec.ofBool (s.params.keyMode == .full) := by
  refine .trans ?_ (BitVec.setWidth_eq _)
  simp only [setWidth_append_eq_or _ (_ ++ _), setWidth_zero_append, BitVec.shiftLeft_or_distrib,
    ← BitVec.shiftLeft_add, csrValue, modesWord, bitWord_eq_setWidth, BitVec.or_assoc]

theorem csrValue_opcodes (s : State) :
    csrValue s .opcodes =
      0#24 ++ s.params.opcodes.frameWrite ++ s.params.opcodes.frameRead ++ s.params.opcodes.powerOff ++
        s.params.opcodes.zeroAll ++ s.params.opcodes.deviceInit := by
  refine .trans ?_ (BitVec.setWidth_eq _)
  simp only [setWidth_append_eq_or _ (_ ++ _), setWidth_zero_append, BitVec.shiftLeft_or_distrib,
    ← BitVec.shiftLeft_add, csrValue, opcodesWord, BitVec.or_assoc]

/-- CSRR of a register known to hold `v`, with the response written out. -/
theorem exec_csrr_of_csrValue {s : State} {n : BitVec 8} {r : Csr} {v : Word} (hn : csrOfNumber n = some r)
    (hv : csrValue s r = v) :
    exec (.csrr n) s = .next { s with fsm := .idle, rspStatus := 0, rspData := v } := by
  rw [exec_csrr_defined hn, hv]
  rfl

/-- Settles O16, register by register. -/
theorem csrrReadsEveryRegister : Obligations.CsrrReadsEveryRegister := by
  unfold Obligations.CsrrReadsEveryRegister
  intro s reads
  refine ⟨?capacity, ?retry, ?status, ?ffc, fun hlen => ?ccount, ?lastRsp, ?lastAttempts, ?devframes, ?capmax, ?modes,
    ?opcodes⟩
  case capacity => exact exec_csrr_of_csrValue rfl (setWidth_eq_zero_append s.capacity)
  case retry => exact exec_csrr_of_csrValue rfl (csrValue_retry s)
  case status => exact exec_csrr_of_csrValue rfl (csrValue_status s)
  case ffc => exact exec_csrr_of_csrValue rfl (setWidth_eq_zero_append s.ffc)
  case ccount => exact exec_csrr_of_csrValue rfl (csrValue_ccount hlen)
  case lastRsp => exact exec_csrr_of_csrValue (r := .lastRsp) rfl rfl
  case lastAttempts => exact exec_csrr_of_csrValue rfl (setWidth_eq_zero_append s.lastAttempts)
  case devframes => exact exec_csrr_of_csrValue rfl (setWidth_eq_zero_append s.params.deviceFrames)
  case capmax => exact exec_csrr_of_csrValue rfl (setWidth_eq_zero_append s.params.capMax)
  case modes => exact exec_csrr_of_csrValue rfl (csrValue_modes s)
  case opcodes => exact exec_csrr_of_csrValue rfl (csrValue_opcodes s)

end Sys2Proof.Machine

/-! ### Writing CAPACITY and RETRY (44_lifecycle_access.md R205; 10_state.md R26, R27) -/

namespace Sys2Proof.Machine

theorem capField_eq_setWidth (v : BitVec 48) : capField v = v.setWidth 16 :=
  (BitVec.setWidth_eq_extractLsb' (by decide)).symm

theorem limitField_eq_setWidth (v : BitVec 48) : limitField v = v.setWidth 32 :=
  (BitVec.setWidth_eq_extractLsb' (by decide)).symm

/-- Without reserved bits, UNBOUNDED is the top bit of the value (10_state.md R27). -/
theorem unboundedField_eq_decide {v : BitVec 48} (h : v.toNat < 2 ^ 33) :
    unboundedField v = decide (2 ^ 32 ≤ v.toNat) := by
  rw [unboundedField, BitVec.getLsbD, Nat.testBit_eq_decide_div_mod_eq, decide_eq_decide]
  omega

/-- While off, a capacity from 1 to CAP_MAX is taken. -/
theorem writeCapacity_taken {v : BitVec 48} {s : State} (off : s.powered = false) (hpos : 1 ≤ v.toNat)
    (hmax : v.toNat ≤ s.params.capMax.toNat) :
    writeCapacity v s = respond false 0 { s with capacity := v.setWidth 16 } := by
  have hres : capReserved v = 0 := (capReserved_eq_zero_iff v).mpr (lt_of_le_of_lt hmax s.params.capMax.isLt)
  have hvalue := capField_toNat hres
  obtain ⟨hne, -⟩ | ⟨-, on, -⟩ | ⟨-, -, hzero | hover, -⟩ | ⟨-, -, -, -, hw⟩ := writeCapacity_cases v s
  · exact absurd hres hne
  · simp [off] at on
  · simp [hzero] at hvalue
    omega
  · have := BitVec.lt_def.mp hover
    omega
  · rw [hw, capField_eq_setWidth]

/-- While on, no capacity is taken, in or out of range: the write is late (44_lifecycle_access.md R205). -/
theorem writeCapacity_late {v : BitVec 48} {s : State} (on : s.powered = true) (hv : v.toNat < 2 ^ 16) :
    writeCapacity v s = raise .cfgLate 0 { s with cfgFault := true } := by
  obtain ⟨hne, -⟩ | ⟨-, -, hw⟩ | ⟨-, off, -⟩ | ⟨-, off, -⟩ := writeCapacity_cases v s
  · exact absurd ((capReserved_eq_zero_iff v).mpr hv) hne
  · exact hw
  all_goals simp [on] at off

theorem writeRetry_taken {v : BitVec 48} (hv : v.toNat < 2 ^ 33) (s : State) :
    writeRetry v s =
      respond false 0 { s with retryLimit := v.setWidth 32, retryUnbounded := decide (2 ^ 32 ≤ v.toNat) } := by
  obtain ⟨hne, -⟩ | ⟨-, hw⟩ := writeRetry_cases v s
  · exact absurd ((retryReserved_eq_zero_iff v).mpr hv) hne
  · rw [hw, limitField_eq_setWidth, unboundedField_eq_decide hv]

/-- Settles O17, by the outcomes of the two writes. -/
theorem csrwWritesCapacityAndRetry : Obligations.CsrwWritesCapacityAndRetry := by
  unfold Obligations.CsrwWritesCapacityAndRetry
  refine fun s v => ⟨fun off hpos hmax => ?_, fun on hv => ?_, fun hv => ?_⟩
  · rw [exec_csrw_capacity, writeCapacity_taken off hpos hmax]; rfl
  · rw [exec_csrw_capacity, writeCapacity_late on hv]; rfl
  · rw [exec_csrw_retry, writeRetry_taken hv]; rfl

end Sys2Proof.Machine

/-! ### Which commands the power state gates (44_lifecycle_access.md R206) -/

namespace Sys2Proof.Machine

theorem exec_cupsert_off {s : State} (off : s.powered = false) (sid : StoreId) (fidx : FrameIndex) :
    exec (.cupsert sid fidx) s = .next (raise .notPoweredOn 0 s) := if_neg (Bool.eq_false_iff.mp off)

theorem exec_alloc_off {s : State} (off : s.powered = false) (have_ : BitVec 20) (need : BitVec 32) :
    exec (.alloc have_ need) s = .next (raise .notPoweredOn 0 s) := if_neg (Bool.eq_false_iff.mp off)

@[simp] theorem causeField_statusWord (fail hit : Bool) (cause : Cause) :
    causeField (statusWord fail hit cause) = cause.code := by
  cases fail <;> cases hit <;> cases cause <;> rfl

/-- `o` is a next state that does not report a failed power check. -/
def PassesPowerCheck (o : Host.Outcome State Fault Refusal) : Prop :=
  ∃ t, o = .next t ∧ causeField t.rspStatus ≠ Cause.notPoweredOn.code

theorem passesPowerCheck_respond (hit : Bool) (data : Word) (s : State) :
    PassesPowerCheck (.next (respond hit data s)) :=
  ⟨_, rfl, by rw [respond_rspStatus, causeField_statusWord]; decide⟩

theorem passesPowerCheck_raise {cause : Cause} (hcode : cause.code ≠ Cause.notPoweredOn.code) (data : Word)
    (s : State) : PassesPowerCheck (.next (raise cause data s)) :=
  ⟨_, rfl, by rwa [raise_rspStatus, causeField_statusWord]⟩

theorem exec_pwrOn_passesPowerCheck (s : State) : PassesPowerCheck (exec .pwrOn s) := by
  cases hp : s.powered with
  | true => rw [exec_pwrOn_on hp]; exact passesPowerCheck_respond ..
  | false => rw [exec_pwrOn_off hp]; exact passesPowerCheck_respond ..

theorem exec_csrr_passesPowerCheck (n : BitVec 8) (s : State) : PassesPowerCheck (exec (.csrr n) s) := by
  cases hn : csrOfNumber n with
  | some r => rw [exec_csrr_defined hn]; exact passesPowerCheck_respond ..
  | none => rw [exec_csrr_reserved hn]; exact passesPowerCheck_raise (by decide) 0 s

/-- A late capacity write fails CFG_LATE: it meets the power state, but not R206's check. -/
theorem writeCapacity_passesPowerCheck (v : BitVec 48) (s : State) :
    PassesPowerCheck (.next (writeCapacity v s)) := by
  obtain ⟨-, hw⟩ | ⟨-, -, hw⟩ | ⟨-, -, -, hw⟩ | ⟨-, -, -, -, hw⟩ := writeCapacity_cases v s <;> rw [hw]
  · exact passesPowerCheck_raise (by decide) 0 s
  · exact passesPowerCheck_raise (by decide) 0 _
  · exact passesPowerCheck_raise (by decide) 0 s
  · exact passesPowerCheck_respond ..

theorem writeRetry_passesPowerCheck (v : BitVec 48) (s : State) : PassesPowerCheck (.next (writeRetry v s)) := by
  obtain ⟨-, hw⟩ | ⟨-, hw⟩ := writeRetry_cases v s <;> rw [hw]
  · exact passesPowerCheck_raise (by decide) 0 s
  · exact passesPowerCheck_respond ..

theorem exec_csrw_passesPowerCheck (n : BitVec 8) (v : BitVec 48) (s : State) :
    PassesPowerCheck (exec (.csrw n v) s) := by
  by_cases hn : 1 < n.toNat
  · rw [exec_csrw_unwritable hn]
    exact passesPowerCheck_raise (by decide) 0 s
  · obtain rfl | rfl : n = 0 ∨ n = 1 := by bv_omega
    · exact writeCapacity_passesPowerCheck v s
    · exact writeRetry_passesPowerCheck v s

/-- Settles O14: the gated commands by their power check, the illegal word by the decode check of O7, and the others
by `PassesPowerCheck`. -/
theorem powerGatesFiveCommands : Obligations.PowerGatesFiveCommands := by
  unfold Obligations.PowerGatesFiveCommands
  refine ⟨?gated, ?illegal, ?accepted⟩
  case gated =>
    rintro s i off (⟨opc, fidx, rfl⟩ | ⟨sid, fidx, rfl⟩ | ⟨sid, fidx, rfl⟩ | ⟨have_, need, rfl⟩ | rfl)
    · exact exec_exec_off off opc fidx
    · exact exec_clookup_off off
    · exact exec_cupsert_off off sid fidx
    · exact exec_alloc_off off have_ need
    · exact exec_pwrOff_off off
  case illegal =>
    obtain ⟨-, -, hillegal, -⟩ := illegalWordsFailBadCommand
    exact fun s w rest why _ => hillegal s w rest why
  case accepted =>
    rintro s i (rfl | ⟨a, rfl⟩ | ⟨a, d, rfl⟩ | ⟨n, rfl⟩ | ⟨n, v, rfl⟩)
    · exact exec_pwrOn_passesPowerCheck s
    · exact passesPowerCheck_respond ..
    · exact passesPowerCheck_respond ..
    · exact exec_csrr_passesPowerCheck n s
    · exact exec_csrw_passesPowerCheck n v s

end Sys2Proof.Machine

/-! ### The host driver (47_host_driver.md R231, R240, R241)

A command other than EXEC ends in its own step, so the host's wait for its response is one tick of the bench; the
fixture answers in XCHG only and takes no part. -/

namespace Sys2Proof.Machine

theorem benchAnswer_idle {b : Bench} (hidle : b.block.fsm = .idle) : benchAnswer b = b := by
  unfold benchAnswer
  cases b.fixture with
  | none => rfl
  | some _ => exact if_neg fun hxchg => Fsm.noConfusion (hidle.symm.trans hxchg.1)

theorem benchTick_idle {b : Bench} {t : State} (hidle : b.block.fsm = .idle) (hstep : step b.block = .next t) :
    benchTick b = .next { b with block := t } := by
  simp only [benchTick, benchAnswer_idle hidle, hstep]

theorem benchRun_done {b : Bench} (hidle : b.block.fsm = .idle) (hport : b.block.port = []) (fuel : Nat) :
    benchRun fuel b = some b := by
  cases fuel <;> exact if_pos ⟨hidle, hport⟩

theorem benchRun_of_step {b : Bench} {t : State} {fuel : Nat} (hfuel : 1 ≤ fuel) (hidle : b.block.fsm = .idle)
    (hport : b.block.port ≠ []) (hstep : step b.block = .next t) (hends : t.fsm = .idle) (htaken : t.port = []) :
    benchRun fuel b = some { b with block := t } := by
  obtain ⟨n, rfl⟩ := Nat.exists_eq_add_of_le' hfuel
  simp only [benchRun, hport, and_false, if_false, benchTick_idle hidle hstep]
  exact benchRun_done hends htaken n

theorem step_issued {s : State} {i : Instr} (p : Params) (hidle : s.fsm = .idle) (hr : s.resetPin = false)
    (hi : i.isCommand = true) : step { s with port := [encode p i] } = exec i { s with port := [] } :=
  step_command (s := { s with port := [encode p i] }) hr hidle rfl (decodeEncodeEveryCommand p i hi)

/-- A command that ends in its own step has responded after one tick. -/
theorem benchCommand_of_exec {b : Bench} {i : Instr} {t : State} {fuel : Nat} (p : Params) (hfuel : 1 ≤ fuel)
    (hidle : b.block.fsm = .idle) (hr : b.block.resetPin = false) (hi : i.isCommand = true)
    (hexec : exec i { b.block with port := [] } = .next t) (hends : t.fsm = .idle) (htaken : t.port = []) :
    benchCommand fuel (encode p i) b = some { b with block := t } :=
  benchRun_of_step (b := { b with block := { b.block with port := [encode p i] } }) hfuel hidle
    (List.cons_ne_nil _ _) ((step_issued p hidle hr hi).trans hexec) hends htaken

/-! ### The power check (R231) -/

/-- `d` after the block's response to CSRR of STATUS. -/
def Driver.statusRead (d : Driver) : Driver :=
  let s := { d.bench.block with port := [] }
  { d with bench := { d.bench with block := respond false (csrValue s .status) s } }

@[simp] theorem statusRead_files (d : Driver) : d.statusRead.files = d.files := rfl
@[simp] theorem statusRead_handles (d : Driver) : d.statusRead.handles = d.handles := rfl

theorem issue_csrr_status {d : Driver} (hidle : d.bench.block.fsm = .idle) (hr : d.bench.block.resetPin = false)
    (hwait : 1 ≤ d.patience) : issue (.csrr Csr.status.number) d = .ok () d.statusRead := by
  have hexec := exec_csrr_defined (csrOfNumber_number .status) { d.bench.block with port := [] }
  rw [issue, benchCommand_of_exec _ hwait hidle hr rfl hexec rfl rfl]
  rfl

/-- Bit 0 of STATUS is POWERED (10_state.md R28). -/
theorem getLsbD_zero_status (s : State) : (csrValue s .status).getLsbD 0 = s.powered := by
  rw [csrValue_status, BitVec.getLsbD_append]
  simp

theorem whenPowered_of_powered {α : Type} {d : Driver} (hon : d.bench.block.powered = true)
    (hidle : d.bench.block.fsm = .idle) (hr : d.bench.block.resetPin = false) (hwait : 1 ≤ d.patience)
    (k : Driver → DriverOutcome α) : whenPowered d k = k d.statusRead := by
  rw [whenPowered, issue_csrr_status hidle hr hwait]
  exact if_pos ((getLsbD_zero_status _).trans hon)

/-! ### The handle check and the cursor (R240, R241) -/

theorem whenOpen_of_open {α : Type} {d : Driver} {h i c : Nat} {f : DriverFile}
    (hopen : d.handles[h]? = some ⟨some i, some c, true⟩) (hfile : d.files[i]? = some f)
    (k : Nat → DriverFile → Nat → DriverOutcome α) : whenOpen d h k = k i f c := by
  simp only [whenOpen, hopen, hfile]

theorem setCursor_getElem? {d : Driver} {h : Nat} {x : DriverHandle} (hx : d.handles[h]? = some x) (c : Nat) :
    (setCursor h c d).handles[h]? = some { x with cursor := some c } := by
  simp only [setCursor, List.getElem?_modify_eq, hx, Option.map_eq_map, Option.map_some]

/-- Past both checks a seek is R240's range check. -/
theorem hostSeek_of_open {d : Driver} {h i c : Nat} {f : DriverFile} (hon : d.bench.block.powered = true)
    (hidle : d.bench.block.fsm = .idle) (hr : d.bench.block.resetPin = false) (hwait : 1 ≤ d.patience)
    (hopen : d.handles[h]? = some ⟨some i, some c, true⟩) (hfile : d.files[i]? = some f) (off : Nat) :
    hostSeek h off d =
      if f.size < off then .failed .seekOutOfRange d.statusRead else .ok () (setCursor h off d.statusRead) := by
  rw [hostSeek, whenPowered_of_powered hon hidle hr hwait,
    whenOpen_of_open (d := d.statusRead) (by simpa using hopen) (by simpa using hfile)]

/-- Settles O59, by the two sides of the range check. -/
theorem seekStaysWithinTheFile : Obligations.SeekStaysWithinTheFile := by
  unfold Obligations.SeekStaysWithinTheFile
  intro d h off i c f hon hidle hr hwait hopen hfile
  rw [hostSeek_of_open hon hidle hr hwait hopen hfile]
  refine ⟨fun hin => ⟨_, if_neg hin.not_gt, ?_⟩, fun hout => ⟨_, if_pos hout, statusRead_handles d⟩⟩
  exact setCursor_getElem? (d := d.statusRead) (by simpa using hopen) off

end Sys2Proof.Machine

/-! ## The statements of 60_exceptions.md: failures are precise, and no step ends in a stop

The one way a command fails is `raise`; the ways of a step all answer with a next state. -/

namespace Sys2Proof.Machine

/-- A command that fails in its own step raises its cause over the state it found, but for CFG_LATE, whose CSRW has set
CFG_FAULT (60_exceptions.md R270, R273; 10_state.md R24). -/
theorem exec_command_fails {i : Instr} {s t : State} (hi : i.isCommand = true) (h : exec i s = .next t)
    (hidle : t.fsm = .idle) (hfail : failFlag t.rspStatus = true) :
    (∃ cause, t = raise cause 0 s) ∨ t = raise .cfgLate 0 { s with cfgFault := true } := by
  obtain ⟨opc, fidx, -, -, rfl⟩ | ⟨cause, ht, -⟩ | ⟨_, -, -, ht⟩ | ⟨hit, data, s', rfl, -⟩ := exec_command_cases hi h
  · cases hidle -- an accepted EXEC goes to PREP
  · exact .inl ⟨cause, ht⟩
  · exact .inr ht
  · simp at hfail -- a success has FAIL = 0

/-- Settles O47, by the two ways a command fails in its own step. -/
theorem failuresArePrecise : Obligations.FailuresArePrecise := by
  unfold Obligations.FailuresArePrecise
  intro i s t hi h hidle hfail
  obtain ⟨cause, rfl⟩ | rfl := exec_command_fails hi h hidle hfail
  · exact ⟨rfl, fun hchanged => absurd rfl hchanged⟩
  · exact ⟨rfl, fun _ => rfl⟩

/-- IDLE: the block waits, refuses an illegal word or runs a command. -/
theorem step_idle_next {s : State} (hr : s.resetPin = false) (hidle : s.fsm = .idle) : ∃ t, step s = .next t := by
  cases hport : s.port with
  | nil => exact ⟨s, by simp only [step, fetch_idle hr hidle, acceptCommand, hport]⟩
  | cons w rest =>
    cases hdec : decode w with
    | illegal why => exact ⟨_, step_illegal hr hidle hport hdec⟩
    | instr i =>
      obtain ⟨t, ht⟩ := exec_command_next (decode_isCommand hdec) { s with port := rest }
      exact ⟨t, (step_command hr hidle hport hdec).trans ht⟩

/-- Settles O10, by block reset and the control states of R121. -/
theorem everyStateHasANextState : Obligations.EveryStateHasANextState := by
  unfold Obligations.EveryStateHasANextState
  intro s
  obtain hr | hr := Bool.eq_false_or_eq_true s.resetPin
  · exact ⟨_, step_reset hr⟩
  · cases hfsm : s.fsm with
    | idle => exact step_idle_next hr hfsm
    | prep => exact ⟨_, step_prep hr hfsm⟩
    | xchg => exact ⟨_, step_xchg hr hfsm⟩
    | check => exact ⟨_, step_check hr hfsm⟩

end Sys2Proof.Machine

/-! ## Block reset (70_reset_and_hazards.md R300, R301)

A step with the reset input asserted is `step_reset`; what `blockReset` leaves in each field is said in the laws of the
state. -/

namespace Sys2Proof.Machine

/-! ### The reset values (R300) -/

/-- An empty cache counts 0 (10_state.md R30). -/
theorem csrValue_ccount_of_empty {s : State} (hce : s.ce = []) : csrValue s .ccount = 0 := by
  rw [csrValue_ccount (by simp [hce]), hce]
  rfl

/-- The CSRs that report the parameters read them in every state (10_state.md R33 to R36). -/
theorem csrValue_parameters (s : State) :
    csrValue s .devframes = s.params.deviceFrames.setWidth 64 ∧ csrValue s .capmax = s.params.capMax.setWidth 64 ∧
    csrValue s .modes = modesWord s.params ∧ csrValue s .opcodes = opcodesWord s.params.opcodes :=
  ⟨rfl, rfl, rfl, rfl⟩

/-- Settles O52: the next state is `blockReset s`, whose cache is empty and whose parameters are those of `s`. -/
theorem resetSetsEveryRegister : Obligations.ResetSetsEveryRegister := by
  unfold Obligations.ResetSetsEveryRegister
  intro s hr
  refine ⟨blockReset s, step_reset hr, ?_⟩
  have hcount := csrValue_ccount_of_empty (blockReset_ce s)
  have hparams := csrValue_parameters (blockReset s)
  simp [hcount, hparams]

/-! ### The outstanding answer (R301) -/

theorem busDiscard_of_listed {b : BusSource} {a : BusAnswer} {l : List BusAnswer} (h : b.listed = a :: l) :
    busDiscard b = { b with listed := l } := by
  simp only [busDiscard, h]

theorem blockReset_discards {s : State} {a : BusAnswer} {l : List BusAnswer} (hxchg : s.fsm = .xchg)
    (hlisted : s.bus.listed = a :: l) : (blockReset s).bus = { s.bus with listed := l } := by
  rw [blockReset_bus, if_pos hxchg, busDiscard_of_listed hlisted]

/-- Settles O53: in XCHG block reset takes the next listed answer off the bus. -/
theorem resetDiscardsTheOutstandingAnswer : Obligations.ResetDiscardsTheOutstandingAnswer := by
  unfold Obligations.ResetDiscardsTheOutstandingAnswer
  intro s a l hr hxchg hlisted
  refine ⟨blockReset s, step_reset hr, ?_⟩
  simp [-blockReset_bus, blockReset_discards hxchg hlisted]

/-! ### The invariant at reset -/

/-- No exchange and no attempt is in progress in IDLE, so the engine's parts of the invariant ask nothing there. -/
theorem engineInvariants_of_idle {s : State} (hidle : s.fsm = .idle) :
    RequestBuilt s ∧ AttemptsBounded s ∧ AttemptsReported s := by
  simp [RequestBuilt, AttemptsBounded, AttemptsReported, hidle]

/-- The reset RSP_STATUS is that of a success without a hit. -/
theorem resetOf_responseLegal (p : Params) : ResponseLegal (State.resetOf p) :=
  .inl ⟨false, rfl⟩

/-- Of a legal choice of the parameters the invariant at reset needs CAP_MAX ≥ 1 only. -/
theorem resetOf_inv {p : Params} (hcapMax : 1 ≤ p.capMax.toNat) : Inv (State.resetOf p) := by
  have hcache : CacheInv (State.resetOf p) := cacheInv_of_empty ⟨hcapMax, le_rfl⟩ rfl rfl
  have hffc : FfcBounded (State.resetOf p) := Nat.zero_le _
  have hbuf : BuffersWf (State.resetOf p) := ⟨nil_wf, nil_wf, List.forall_mem_nil _⟩
  exact ⟨hcache, hffc, resetOf_responseLegal p, hbuf, engineInvariants_of_idle rfl⟩

theorem default_legal : Params.default.Legal := by decide

/-- Settles O55: `resetOf_inv`, of any legal parameters and of the machine's own. -/
theorem invariantHoldsAtReset : Obligations.InvariantHoldsAtReset := by
  unfold Obligations.InvariantHoldsAtReset
  have hinv (p : Params) (hp : p.Legal) : Inv (State.resetOf p) := by
    obtain ⟨-, -, hcapMax, -⟩ := hp
    exact resetOf_inv hcapMax
  exact ⟨hinv, default_legal, hinv Params.default default_legal⟩

end Sys2Proof.Machine
